-- ==== Sys2Proof/Word.lean ====
section
/-! DEFINITION. The word types of the machine (spec 00_scope R5, R7, R8). -/

namespace Sys2Proof

/-- Four bits: half a byte, a mask or a constant of a branch (R7). -/
abbrev Nibble := BitVec 4

/-- Eight bits: a general register, a special register, a byte of Data Memory (R5). -/
abbrev Byte := BitVec 8

/-- Sixteen bits: a Data Memory pointer, a Control Memory address, an auxiliary register (R5). -/
abbrev Addr := BitVec 16

/-- One 24-bit control word, bit 23 the parity bit (R5, R91). -/
abbrev CWord := BitVec 24

/-- The number of a general register, R0 to R7 (R20). -/
abbrev RegNum := Fin 8

/-- The number of an auxiliary register, AR 00 to AR 1F (R27). -/
abbrev ArNum := Fin 32

end Sys2Proof
end

