-- ==== Sys2Proof/Config.lean ====
section
/-! DEFINITION. What an implementation fixes (spec 00_scope R6) and the free values. The opaque
constants have no body: nothing in Lean can evaluate one, so a theorem holds for every choice. -/

namespace Sys2Proof.Config

/-- NBANKS - 1: there is at least one bank of Data Memory (R6, D5). -/
opaque extraBanks : Nat

/-- NBANKS, the number of 64K-byte Data Memory banks (R6, D5). -/
abbrev nbanks : Nat := extraBanks + 1

/-- BANK_OF_SL: which bank a value of SL selects (R6, R26, R63). -/
opaque bankOfSl : Byte → Fin nbanks

/-- DM_PRESENT for one 16-bit word of Data Memory: the bank, and the address without its lowest bit
(R6, R72). Memory is fitted by words, "for the word read" of R303 (log 9). -/
opaque dmWordPresent : Nat → BitVec 15 → Bool

/-- CM_WRITABLE: which Control Memory words are RAM (R6, R75). -/
opaque cmWritable : Addr → Bool

/-- PECM_VECTOR: the Control Memory address a control-memory parity error vectors to (R6, R302). -/
opaque pecmVector : Addr

/-- PEDM_VECTOR: the Control Memory address a data-memory parity error vectors to (R6, R303). -/
opaque pedmVector : Addr

/-- RESET_VECTOR (R6, R331). DESIGN CHOICE $0000, unsafe: the spec gives no address (log 2). -/
def resetVector : Addr := 0

/-- The three readings of R70 of what CH and CL hold after a ,W1 or ,W2. -/
inductive AfterWrite
  /-- CH and CL keep their values. -/
  | unchanged
  /-- The read half of the write loads CH and CL with the word as it was. -/
  | loadedOldWord
  /-- CH and CL hold unspecified values. -/
  | any
  deriving DecidableEq, Repr, Inhabited

/-- CHCL_AFTER_WRITE (R6, R70, D4). -/
opaque chclAfterWrite : AfterWrite

/-- The n-th free byte: a value the spec leaves unspecified (U2, U3, U4; log 11, 12). -/
opaque freeByte : Nat → Byte

end Sys2Proof.Config
end

