-- ==== Sys2Proof/Syntax.lean ====
section
/-! DEFINITION. The operands and the instructions, one constructor of `Instr` for every mnemonic of
spec/opcode_table.json. Every bit of an encoding that is not fixed is in the term. -/

namespace Sys2Proof

/-- A source of the A bus (Table 1, R101); `+` and `-` sources move PHPL afterwards. -/
inductive ASrc
  | r (n : RegNum)
  | clMinus
  | chMinus
  | cl
  | ch
  | clPlus
  | chPlus
  | zeroPlus
  | zeroMinus
  deriving DecidableEq, Repr

/-- A source of the B bus (Table 2, R102). -/
inductive BSrc
  | r (n : RegNum)
  | pl
  | ph
  | cl
  | ch
  | sl
  | sh
  | k
  | zero
  deriving DecidableEq, Repr

/-- A destination, the C bus (Table 3, R103). Codes 1010 and 1011 are "ILLEGAL". -/
inductive Dest
  | r (n : RegNum)
  | pl
  | ph
  | illegalA
  | illegalB
  | sl
  | sh
  | k
  | dum
  deriving DecidableEq, Repr

/-- The Data Memory operation, bits 13:12 (Table 4, R66, R104). -/
inductive MemOp
  | none
  | rd
  | w1
  | w2
  deriving DecidableEq, Repr

/-- The carry control, bits 15:14 (R98): 00, 01 (the same as 00, where it is permitted), 10 ",CC"
and 11 ",CS". -/
inductive CarryCtl
  | asIs
  | asIsAlt
  | clear
  | set
  deriving DecidableEq, Repr

/-- A nibble selection (R99): the A nibble, then the B nibble, Low or High. -/
inductive NibSel
  | albl
  | ahbl
  | albh
  | ahbh
  deriving DecidableEq, Repr

/-- The P register control, bits 14, 10, 9 (R106); 000 and 100 both mean "No Effect". -/
inductive PCtl
  | same
  | plus1
  | plus2
  | plus3
  | sameAlt
  | minus1
  | minus2
  | minus3
  deriving DecidableEq, Repr

/-- The Control Memory control of RTS, bits 10:9 (Table 5, R105); 00 and 01 both mean "No Op". -/
inductive CmCtl
  | noOp
  | noOpAlt
  | write
  | read
  deriving DecidableEq, Repr

/-- The instructions (R110), family by family. `mm` is the Data Memory field, `x` of a branch its
10-bit in-page target, `x` of the stack and auxiliary group the "Don't Care" bit 11 (R100). -/
inductive Instr
  -- Branch (R131, R132)
  | jmp (target : Addr)
  | jsr (target : Addr)
  -- Masked Branch (R141 to R144)
  | btl (x : BitVec 10) (c : Nibble) (b : BSrc)
  | bth (x : BitVec 10) (c : Nibble) (b : BSrc)
  | bfl (x : BitVec 10) (c : Nibble) (b : BSrc)
  | bfh (x : BitVec 10) (c : Nibble) (b : BSrc)
  -- Valued Branch (R151 to R154)
  | bel (x : BitVec 10) (c : Nibble) (b : BSrc)
  | beh (x : BitVec 10) (c : Nibble) (b : BSrc)
  | bnl (x : BitVec 10) (c : Nibble) (b : BSrc)
  | bnh (x : BitVec 10) (c : Nibble) (b : BSrc)
  -- Register Comparison Branch (R162 to R169)
  | blr (x : BitVec 10) (a : ASrc) (b : BSrc)
  | blrx (x : BitVec 10) (a : ASrc) (b : BSrc)
  | bler (x : BitVec 10) (a : ASrc) (b : BSrc)
  | blex (x : BitVec 10) (a : ASrc) (b : BSrc)
  | ber (x : BitVec 10) (a : ASrc) (b : BSrc)
  | bnr (x : BitVec 10) (a : ASrc) (b : BSrc)
  | bez (x : BitVec 10) (a : ASrc)
  | bnz (x : BitVec 10) (a : ASrc)
  -- Register ALU (R184 to R201)
  | or (cc : CarryCtl) (mm : MemOp) (d : Dest) (a : ASrc) (b : BSrc)
  | orx (cc : CarryCtl) (mm : MemOp) (d : Dest) (a : ASrc) (b : BSrc)
  | xor (cc : CarryCtl) (mm : MemOp) (d : Dest) (a : ASrc) (b : BSrc)
  | xorx (cc : CarryCtl) (mm : MemOp) (d : Dest) (a : ASrc) (b : BSrc)
  | and (cc : CarryCtl) (mm : MemOp) (d : Dest) (a : ASrc) (b : BSrc)
  | andx (cc : CarryCtl) (mm : MemOp) (d : Dest) (a : ASrc) (b : BSrc)
  | sbc (cc : CarryCtl) (mm : MemOp) (d : Dest) (a : ASrc) (b : BSrc)
  | sbcx (cc : CarryCtl) (mm : MemOp) (d : Dest) (a : ASrc) (b : BSrc)
  | dac (cc : CarryCtl) (mm : MemOp) (d : Dest) (a : ASrc) (b : BSrc)
  | dacx (cc : CarryCtl) (mm : MemOp) (d : Dest) (a : ASrc) (b : BSrc)
  | dsc (cc : CarryCtl) (mm : MemOp) (d : Dest) (a : ASrc) (b : BSrc)
  | dscx (cc : CarryCtl) (mm : MemOp) (d : Dest) (a : ASrc) (b : BSrc)
  | adc (cc : CarryCtl) (mm : MemOp) (d : Dest) (a : ASrc) (b : BSrc)
  | adcx (cc : CarryCtl) (mm : MemOp) (d : Dest) (a : ASrc) (b : BSrc)
  | mul (nn : NibSel) (mm : MemOp) (d : Dest) (a : ASrc) (b : BSrc)
  | mulx (nn : NibSel) (mm : MemOp) (d : Dest) (a : ASrc) (b : BSrc)
  | sdc (ss : NibSel) (mm : MemOp) (d : Dest) (a : ASrc) (b : BSrc)
  | sdcx (ss : NibSel) (mm : MemOp) (d : Dest) (a : ASrc) (b : BSrc)
  -- Immediate ALU (R231 to R239)
  | ior (mm : MemOp) (d : Dest) (imm : Byte) (b : BSrc)
  | set (mm : MemOp) (d : Dest) (imm : Byte)
  | ixor (mm : MemOp) (d : Dest) (imm : Byte) (b : BSrc)
  | iand (mm : MemOp) (d : Dest) (imm : Byte) (b : BSrc)
  | iadd (mm : MemOp) (d : Dest) (imm : Byte) (b : BSrc)
  | idac (mm : MemOp) (d : Dest) (imm : Byte) (b : BSrc)
  | idsc (mm : MemOp) (d : Dest) (imm : Byte) (b : BSrc)
  | iadc (mm : MemOp) (d : Dest) (imm : Byte) (b : BSrc)
  | imul (high : Bool) (mm : MemOp) (d : Dest) (i : Nibble) (b : BSrc)
  -- Peripheral Control (R250): the five actions of R251, bits 11 to 7, and z = 11 (R253)
  | cio (mm : MemOp) (clk abs obs cbs srs : Bool) (tim : Bool)
  -- Load Data Memory Pointer (R260)
  | lpi (mm : MemOp) (addr : Addr)
  -- Stack and Auxiliary Registers (R273 to R281)
  | tpa (p : PCtl) (mm : MemOp) (x : Bool) (r : ArNum) (b : BSrc)
  | xpa (p : PCtl) (mm : MemOp) (x : Bool) (r : ArNum) (b : BSrc)
  | tap (mm : MemOp) (x : Bool) (r : ArNum) (b : BSrc)
  | tps (p : PCtl) (mm : MemOp) (x : Bool) (b : BSrc)
  | tsp (mm : MemOp) (x : Bool) (b : BSrc)
  | rts (cm : CmCtl) (mm : MemOp) (x : Bool) (b : BSrc)
  deriving DecidableEq, Repr

end Sys2Proof
end

