-- ==== Sys2Proof/WellFormed.lean ====
section
/-! DEFINITION. The terms of `Instr` that some control word stands for (spec 30_encoding R98, R112,
R116). An operand combination the spec refuses (R307 `Refused`) is encodable, so it is well formed. -/

namespace Sys2Proof

/-- Codes 1010 and 1011 of the C bus are "ILLEGAL" (R103). -/
def Dest.isLegal : Dest → Bool
  | .illegalA => false
  | .illegalB => false
  | .r _ => true
  | .pl => true
  | .ph => true
  | .sl => true
  | .sh => true
  | .k => true
  | .dum => true

/-- Carry control 01 is "Not Permitted" for OR, XOR, AND, SBC and their X forms: the word is an SDC
or SDCX (R98, R99). -/
def CarryCtl.isPermittedLogical : CarryCtl → Bool
  | .asIsAlt => false
  | .asIs => true
  | .clear => true
  | .set => true

/-- B = 1111 makes an IOR, BER or BNR word a SET, BEZ or BNZ (R116, log 20). -/
def BSrc.isRegister : BSrc → Bool
  | .zero => false
  | .r _ => true
  | .pl => true
  | .ph => true
  | .cl => true
  | .ch => true
  | .sl => true
  | .sh => true
  | .k => true

/-- Some control word stands for this instruction. In an 8-bit form a destination must be legal
(R103, R112); in an X form the operand check of R183 comes first, so every code is encodable (R307). -/
def Instr.wellFormed : Instr → Bool
  | .jmp _ => true
  | .jsr _ => true
  | .btl _ _ _ => true
  | .bth _ _ _ => true
  | .bfl _ _ _ => true
  | .bfh _ _ _ => true
  | .bel _ _ _ => true
  | .beh _ _ _ => true
  | .bnl _ _ _ => true
  | .bnh _ _ _ => true
  | .blr _ _ _ => true
  | .blrx _ _ _ => true
  | .bler _ _ _ => true
  | .blex _ _ _ => true
  | .ber _ _ b => b.isRegister
  | .bnr _ _ b => b.isRegister
  | .bez _ _ => true
  | .bnz _ _ => true
  | .or cc _ d _ _ => cc.isPermittedLogical && d.isLegal
  | .orx cc _ _ _ _ => cc.isPermittedLogical
  | .xor cc _ d _ _ => cc.isPermittedLogical && d.isLegal
  | .xorx cc _ _ _ _ => cc.isPermittedLogical
  | .and cc _ d _ _ => cc.isPermittedLogical && d.isLegal
  | .andx cc _ _ _ _ => cc.isPermittedLogical
  | .sbc cc _ d _ _ => cc.isPermittedLogical && d.isLegal
  | .sbcx cc _ _ _ _ => cc.isPermittedLogical
  | .dac _ _ d _ _ => d.isLegal
  | .dacx _ _ _ _ _ => true
  | .dsc _ _ d _ _ => d.isLegal
  | .dscx _ _ _ _ _ => true
  | .adc _ _ d _ _ => d.isLegal
  | .adcx _ _ _ _ _ => true
  | .mul _ _ d _ _ => d.isLegal
  | .mulx _ _ _ _ _ => true
  | .sdc _ _ d _ _ => d.isLegal
  | .sdcx _ _ _ _ _ => true
  | .ior _ d _ b => d.isLegal && b.isRegister
  | .set _ d _ => d.isLegal
  | .ixor _ d _ _ => d.isLegal
  | .iand _ d _ _ => d.isLegal
  | .iadd _ d _ _ => d.isLegal
  | .idac _ d _ _ => d.isLegal
  | .idsc _ d _ _ => d.isLegal
  | .iadc _ d _ _ => d.isLegal
  | .imul _ _ d _ _ => d.isLegal
  | .cio _ _ _ _ _ _ _ => true
  | .lpi _ _ => true
  | .tpa _ _ _ _ _ => true
  | .xpa _ _ _ _ _ => true
  | .tap _ _ _ _ => true
  | .tps _ _ _ _ => true
  | .tsp _ _ _ => true
  | .rts _ _ _ _ => true

end Sys2Proof
end

