-- ==== Sys2Proof/Decode.lean ====
section
/-! DEFINITION. Decoding a 24-bit control word, total, rejecting by name, and encoding an instruction
(spec 30_encoding). Decoding reads bits 22 to 0; bit 23 is parity and is checked at fetch (R91, R301). -/

namespace Sys2Proof

/-- Why a word is no instruction: the rows of R112, in its order, and R103. -/
inductive Illegal
  /-- Bits 22:20 = 000, bit 16 = 1, bits 19:17 = 100 or 111. -/
  | auxFunction
  /-- Bits 22:20 = 000, bit 16 = 1, bit 15 = 0. -/
  | auxBit15
  /-- Bits 22:20 = 001, bit 16 = 1, bits 19:17 = 000, 001 or 010. -/
  | ioFunction
  /-- CIO with bits 15:14 other than 10. -/
  | cioFixed
  /-- A bit that TPS, RTS, TAP or TSP prints as 0 is 1. -/
  | auxReserved
  /-- JMP or JSR with bits 1:0 other than 00. -/
  | jumpReserved
  /-- IMUL with bit 17, 16 or 14 = 1. -/
  | imulReserved
  /-- Destination code 1010 or 1011 in an 8-bit form. -/
  | destination
  /-- CIO with bits 6:4 or 1:0 not 0, or bits 3:2 = 01 or 10. -/
  | cioReserved
  deriving DecidableEq, Repr

/-! ## Fields and operand codes -/

/-- The `n` bits of `w` from bit `lo` up, as a number (R7). -/
def field (w : CWord) (lo n : Nat) : Nat := w.toNat / 2 ^ lo % 2 ^ n

/-- Table 1 (R101). -/
def ASrc.ofCode (c : Nat) : ASrc :=
  match c with
  | 8 => .clMinus
  | 9 => .chMinus
  | 10 => .cl
  | 11 => .ch
  | 12 => .clPlus
  | 13 => .chPlus
  | 14 => .zeroPlus
  | 15 => .zeroMinus
  | n => .r (Fin.ofNat 8 n)

/-- Table 1 (R101), the code of a source. -/
def ASrc.code : ASrc → Nat
  | .r n => n.val
  | .clMinus => 8
  | .chMinus => 9
  | .cl => 10
  | .ch => 11
  | .clPlus => 12
  | .chPlus => 13
  | .zeroPlus => 14
  | .zeroMinus => 15

/-- Table 2 (R102). -/
def BSrc.ofCode (c : Nat) : BSrc :=
  match c with
  | 8 => .pl
  | 9 => .ph
  | 10 => .cl
  | 11 => .ch
  | 12 => .sl
  | 13 => .sh
  | 14 => .k
  | 15 => .zero
  | n => .r (Fin.ofNat 8 n)

/-- Table 2 (R102), the code of a source. -/
def BSrc.code : BSrc → Nat
  | .r n => n.val
  | .pl => 8
  | .ph => 9
  | .cl => 10
  | .ch => 11
  | .sl => 12
  | .sh => 13
  | .k => 14
  | .zero => 15

/-- Table 3 (R103). -/
def Dest.ofCode (c : Nat) : Dest :=
  match c with
  | 8 => .pl
  | 9 => .ph
  | 10 => .illegalA
  | 11 => .illegalB
  | 12 => .sl
  | 13 => .sh
  | 14 => .k
  | 15 => .dum
  | n => .r (Fin.ofNat 8 n)

/-- Table 3 (R103), the code of a destination. -/
def Dest.code : Dest → Nat
  | .r n => n.val
  | .pl => 8
  | .ph => 9
  | .illegalA => 10
  | .illegalB => 11
  | .sl => 12
  | .sh => 13
  | .k => 14
  | .dum => 15

/-- Table 4 (R104). -/
def MemOp.ofCode (c : Nat) : MemOp :=
  match c with
  | 0 => .none
  | 1 => .rd
  | 2 => .w1
  | _ => .w2

/-- Table 4 (R104), the code of an operation. -/
def MemOp.code : MemOp → Nat
  | .none => 0
  | .rd => 1
  | .w1 => 2
  | .w2 => 3

/-- The carry control (R98). -/
def CarryCtl.ofCode (c : Nat) : CarryCtl :=
  match c with
  | 0 => .asIs
  | 1 => .asIsAlt
  | 2 => .clear
  | _ => .set

/-- The carry control (R98), its code. -/
def CarryCtl.code : CarryCtl → Nat
  | .asIs => 0
  | .asIsAlt => 1
  | .clear => 2
  | .set => 3

/-- A nibble selection (R99). -/
def NibSel.ofCode (c : Nat) : NibSel :=
  match c with
  | 0 => .albl
  | 1 => .ahbl
  | 2 => .albh
  | _ => .ahbh

/-- A nibble selection (R99), its code. -/
def NibSel.code : NibSel → Nat
  | .albl => 0
  | .ahbl => 1
  | .albh => 2
  | .ahbh => 3

/-- The P register control, bit 14 : bits 10:9 (R106). -/
def PCtl.ofCode (c : Nat) : PCtl :=
  match c with
  | 0 => .same
  | 1 => .plus1
  | 2 => .plus2
  | 3 => .plus3
  | 4 => .sameAlt
  | 5 => .minus1
  | 6 => .minus2
  | _ => .minus3

/-- The P register control (R106), its code. -/
def PCtl.code : PCtl → Nat
  | .same => 0
  | .plus1 => 1
  | .plus2 => 2
  | .plus3 => 3
  | .sameAlt => 4
  | .minus1 => 5
  | .minus2 => 6
  | .minus3 => 7

/-- Table 5 (R105). -/
def CmCtl.ofCode (c : Nat) : CmCtl :=
  match c with
  | 0 => .noOp
  | 1 => .noOpAlt
  | 2 => .write
  | _ => .read

/-- Table 5 (R105), its code. -/
def CmCtl.code : CmCtl → Nat
  | .noOp => 0
  | .noOpAlt => 1
  | .write => 2
  | .read => 3

/-! ## Decoding -/

/-- A 16-bit (X) Register ALU word (R97, R99): any destination code is an operand (R183, R307). -/
def decodeRegX (aaa cc : Nat) (mm : MemOp) (d : Dest) (a : ASrc) (b : BSrc) : Instr :=
  if aaa < 4 ∧ cc = 1 then .sdcx (NibSel.ofCode aaa) mm d a b else
  match aaa with
  | 0 => .orx (CarryCtl.ofCode cc) mm d a b
  | 1 => .xorx (CarryCtl.ofCode cc) mm d a b
  | 2 => .andx (CarryCtl.ofCode cc) mm d a b
  | 3 => .sbcx (CarryCtl.ofCode cc) mm d a b
  | 4 => .dacx (CarryCtl.ofCode cc) mm d a b
  | 5 => .dscx (CarryCtl.ofCode cc) mm d a b
  | 6 => .adcx (CarryCtl.ofCode cc) mm d a b
  | _ => .mulx (NibSel.ofCode cc) mm d a b

/-- An 8-bit Register ALU word (R97, R99). -/
def decodeReg8 (aaa cc : Nat) (mm : MemOp) (d : Dest) (a : ASrc) (b : BSrc) : Instr :=
  if aaa < 4 ∧ cc = 1 then .sdc (NibSel.ofCode aaa) mm d a b else
  match aaa with
  | 0 => .or (CarryCtl.ofCode cc) mm d a b
  | 1 => .xor (CarryCtl.ofCode cc) mm d a b
  | 2 => .and (CarryCtl.ofCode cc) mm d a b
  | 3 => .sbc (CarryCtl.ofCode cc) mm d a b
  | 4 => .dac (CarryCtl.ofCode cc) mm d a b
  | 5 => .dsc (CarryCtl.ofCode cc) mm d a b
  | 6 => .adc (CarryCtl.ofCode cc) mm d a b
  | _ => .mul (NibSel.ofCode cc) mm d a b

/-- Formats RA and SD (R97, R99): bits 22:21 = 00, bit 16 = 0. -/
def decodeRegAlu (w : CWord) : Except Illegal Instr :=
  let aaa := field w 18 3
  let cc := field w 14 2
  let mm := MemOp.ofCode (field w 12 2)
  let d := Dest.ofCode (field w 8 4)
  let a := ASrc.ofCode (field w 4 4)
  let b := BSrc.ofCode (field w 0 4)
  if field w 17 1 = 1 then .ok (decodeRegX aaa cc mm d a b)
  else if d.isLegal then .ok (decodeReg8 aaa cc mm d a b)
  else .error .destination

/-- Format MI (R100): bits 22:20 = 000, bit 16 = 1. -/
def decodeAux (w : CWord) : Except Illegal Instr :=
  let p := field w 14 1 * 4 + field w 9 2
  let mm := MemOp.ofCode (field w 12 2)
  let x := field w 11 1 == 1
  let r := Fin.ofNat 32 (field w 4 5)
  let b := BSrc.ofCode (field w 0 4)
  if field w 15 1 = 0 then .error .auxBit15 else
  match field w 17 3 with
  | 0 => .ok (.tpa (PCtl.ofCode p) mm x r b)
  | 1 => .ok (.xpa (PCtl.ofCode p) mm x r b)
  | 2 => if field w 4 5 = 0 then .ok (.tps (PCtl.ofCode p) mm x b) else .error .auxReserved
  | 3 =>
    if field w 14 1 = 0 ∧ field w 4 5 = 0 then .ok (.rts (CmCtl.ofCode (field w 9 2)) mm x b)
    else .error .auxReserved
  | 5 => if p = 0 then .ok (.tap mm x r b) else .error .auxReserved
  | 6 => if p = 0 ∧ field w 4 5 = 0 then .ok (.tsp mm x b) else .error .auxReserved
  | _ => .error .auxFunction

/-- Format IO (R107): bits 22:16 = 0010111. -/
def decodeCio (w : CWord) : Except Illegal Instr :=
  if field w 14 2 ≠ 2 then .error .cioFixed
  else if field w 4 3 ≠ 0 ∨ field w 0 2 ≠ 0 ∨ field w 2 2 = 1 ∨ field w 2 2 = 2 then
    .error .cioReserved
  else
    .ok (.cio (MemOp.ofCode (field w 12 2)) (field w 11 1 == 1) (field w 10 1 == 1)
      (field w 9 1 == 1) (field w 8 1 == 1) (field w 7 1 == 1) (field w 2 2 == 3))

/-- Bits 22:20 = 001, bit 16 = 1 (R92, R108): LPI, CIO, or unassigned. -/
def decodeIo (w : CWord) : Except Illegal Instr :=
  if field w 19 1 = 1 then
    .ok (.lpi (MemOp.ofCode (field w 12 2))
      (BitVec.ofNat 16 (field w 17 2 * 2 ^ 14 + field w 14 2 * 2 ^ 12 + field w 0 12)))
  else if field w 17 2 = 3 then decodeCio w
  else .error .ioFunction

/-- The instruction of a legal Immediate ALU word (R109); IOR with B = 1111 is SET (R116). -/
def decodeImmLegal (w : CWord) (mm : MemOp) (d : Dest) (imm : Byte) (b : BSrc) :
    Except Illegal Instr :=
  match field w 18 3 with
  | 0 => if b.isRegister then .ok (.ior mm d imm b) else .ok (.set mm d imm)
  | 1 => .ok (.ixor mm d imm b)
  | 2 => .ok (.iand mm d imm b)
  | 3 => .ok (.iadd mm d imm b)
  | 4 => .ok (.idac mm d imm b)
  | 5 => .ok (.idsc mm d imm b)
  | 6 => .ok (.iadc mm d imm b)
  | _ =>
    if field w 16 2 = 0 ∧ field w 14 1 = 0 then
      .ok (.imul (field w 15 1 == 1) mm d (BitVec.ofNat 4 (field w 4 4)) b)
    else .error .imulReserved

/-- Format IM (R109): bits 22:21 = 01. -/
def decodeImm (w : CWord) : Except Illegal Instr :=
  let mm := MemOp.ofCode (field w 12 2)
  let d := Dest.ofCode (field w 8 4)
  let imm := BitVec.ofNat 8 (field w 14 4 * 16 + field w 4 4)
  let b := BSrc.ofCode (field w 0 4)
  if d.isLegal then decodeImmLegal w mm d imm b else .error .destination

/-- Format BR (R93): JMP and JSR, `target = y * 1024 + x`. -/
def decodeJump (w : CWord) (i : Addr → Instr) : Except Illegal Instr :=
  if field w 0 2 = 0 then .ok (i (BitVec.ofNat 16 (field w 2 6 * 1024 + field w 8 10)))
  else .error .jumpReserved

/-- Bits 22 = 1 (R92 to R96): the branches and jumps. -/
def decodeBranch (w : CWord) : Except Illegal Instr :=
  let x := BitVec.ofNat 10 (field w 8 10)
  let c := BitVec.ofNat 4 (field w 4 4)
  let a := ASrc.ofCode (field w 4 4)
  let b := BSrc.ofCode (field w 0 4)
  match field w 18 4 with
  | 0 => .ok (.blr x a b)
  | 1 => .ok (.blrx x a b)
  | 2 => .ok (.bler x a b)
  | 3 => .ok (.blex x a b)
  | 4 => if b.isRegister then .ok (.ber x a b) else .ok (.bez x a)
  | 5 => decodeJump w .jsr
  | 6 => if b.isRegister then .ok (.bnr x a b) else .ok (.bnz x a)
  | 7 => decodeJump w .jmp
  | 8 => .ok (.btl x c b)
  | 9 => .ok (.bth x c b)
  | 10 => .ok (.bfl x c b)
  | 11 => .ok (.bfh x c b)
  | 12 => .ok (.bel x c b)
  | 13 => .ok (.beh x c b)
  | 14 => .ok (.bnl x c b)
  | _ => .ok (.bnh x c b)

/-- The instruction of a control word: the family tree of R92. -/
def decode (w : CWord) : Except Illegal Instr :=
  if field w 22 1 = 1 then decodeBranch w
  else if field w 21 1 = 1 then decodeImm w
  else if field w 16 1 = 0 then decodeRegAlu w
  else if field w 20 1 = 0 then decodeAux w
  else decodeIo w

/-! ## Parity -/

/-- How many of the lowest `n` bits of `v` are 1. -/
def ones : Nat → Nat → Nat
  | 0, _ => 0
  | n + 1, v => v % 2 + ones n (v / 2)

/-- R91: the number of 1 bits among all 24 bits is odd. -/
def oddParity (w : CWord) : Bool := ones 24 w.toNat % 2 == 1

/-- Bits 22 to 0 with the parity bit R91 asks for. -/
def withParity (body : Nat) : CWord :=
  BitVec.ofNat 24 (body % 2 ^ 23 + (1 - ones 23 (body % 2 ^ 23) % 2) * 2 ^ 23)

/-! ## Encoding -/

/-- Format RA and SD (R97, R99), bits 22:0; `x` is bit 17. -/
def bodyReg (aaa x cc : Nat) (mm : MemOp) (d : Dest) (a : ASrc) (b : BSrc) : Nat :=
  aaa * 2 ^ 18 + x * 2 ^ 17 + cc * 2 ^ 14 + mm.code * 2 ^ 12 + d.code * 2 ^ 8 + a.code * 2 ^ 4 +
    b.code

/-- Format IM (R109), bits 22:0. -/
def bodyImm (aaa : Nat) (mm : MemOp) (d : Dest) (imm : Byte) (b : BSrc) : Nat :=
  2 ^ 21 + aaa * 2 ^ 18 + imm.toNat / 16 * 2 ^ 14 + mm.code * 2 ^ 12 + d.code * 2 ^ 8 +
    imm.toNat % 16 * 2 ^ 4 + b.code

/-- Formats MB, VB and RC (R94 to R96), bits 22:0; `op` is bits 21:18, `n` bits 7:4. -/
def bodyBranch (op : Nat) (x : BitVec 10) (n : Nat) (b : BSrc) : Nat :=
  2 ^ 22 + op * 2 ^ 18 + x.toNat * 2 ^ 8 + n * 2 ^ 4 + b.code

/-- Format BR (R93), bits 22:0; `op` is bits 21:18. -/
def bodyJump (op : Nat) (t : Addr) : Nat :=
  2 ^ 22 + op * 2 ^ 18 + t.toNat % 1024 * 2 ^ 8 + t.toNat / 1024 * 2 ^ 2

/-- Format MI (R100), bits 22:0; `p` is bit 14 : bits 10:9. -/
def bodyAux (fff p : Nat) (mm : MemOp) (x : Bool) (r : Nat) (b : BSrc) : Nat :=
  fff * 2 ^ 17 + 2 ^ 16 + 2 ^ 15 + p / 4 * 2 ^ 14 + mm.code * 2 ^ 12 + x.toNat * 2 ^ 11 +
    p % 4 * 2 ^ 9 + r * 2 ^ 4 + b.code

/-- Format LP (R108, R262), bits 22:0. -/
def bodyLpi (mm : MemOp) (t : Addr) : Nat :=
  2 ^ 20 + 2 ^ 19 + t.toNat / 2 ^ 14 * 2 ^ 17 + 2 ^ 16 + t.toNat / 2 ^ 12 % 4 * 2 ^ 14 +
    mm.code * 2 ^ 12 + t.toNat % 2 ^ 12

/-- Format IO (R107), bits 22:0. -/
def bodyCio (mm : MemOp) (clk abs obs cbs srs tim : Bool) : Nat :=
  23 * 2 ^ 16 + 2 ^ 15 + mm.code * 2 ^ 12 + clk.toNat * 2 ^ 11 + abs.toNat * 2 ^ 10 +
    obs.toNat * 2 ^ 9 + cbs.toNat * 2 ^ 8 + srs.toNat * 2 ^ 7 + tim.toNat * 12

/-- Bits 22:0 of an instruction's word (R93 to R109). -/
def encodeBody : Instr → Nat
  | .jmp t => bodyJump 7 t
  | .jsr t => bodyJump 5 t
  | .btl x c b => bodyBranch 8 x c.toNat b
  | .bth x c b => bodyBranch 9 x c.toNat b
  | .bfl x c b => bodyBranch 10 x c.toNat b
  | .bfh x c b => bodyBranch 11 x c.toNat b
  | .bel x c b => bodyBranch 12 x c.toNat b
  | .beh x c b => bodyBranch 13 x c.toNat b
  | .bnl x c b => bodyBranch 14 x c.toNat b
  | .bnh x c b => bodyBranch 15 x c.toNat b
  | .blr x a b => bodyBranch 0 x a.code b
  | .blrx x a b => bodyBranch 1 x a.code b
  | .bler x a b => bodyBranch 2 x a.code b
  | .blex x a b => bodyBranch 3 x a.code b
  | .ber x a b => bodyBranch 4 x a.code b
  | .bnr x a b => bodyBranch 6 x a.code b
  | .bez x a => bodyBranch 4 x a.code .zero
  | .bnz x a => bodyBranch 6 x a.code .zero
  | .or cc mm d a b => bodyReg 0 0 cc.code mm d a b
  | .orx cc mm d a b => bodyReg 0 1 cc.code mm d a b
  | .xor cc mm d a b => bodyReg 1 0 cc.code mm d a b
  | .xorx cc mm d a b => bodyReg 1 1 cc.code mm d a b
  | .and cc mm d a b => bodyReg 2 0 cc.code mm d a b
  | .andx cc mm d a b => bodyReg 2 1 cc.code mm d a b
  | .sbc cc mm d a b => bodyReg 3 0 cc.code mm d a b
  | .sbcx cc mm d a b => bodyReg 3 1 cc.code mm d a b
  | .dac cc mm d a b => bodyReg 4 0 cc.code mm d a b
  | .dacx cc mm d a b => bodyReg 4 1 cc.code mm d a b
  | .dsc cc mm d a b => bodyReg 5 0 cc.code mm d a b
  | .dscx cc mm d a b => bodyReg 5 1 cc.code mm d a b
  | .adc cc mm d a b => bodyReg 6 0 cc.code mm d a b
  | .adcx cc mm d a b => bodyReg 6 1 cc.code mm d a b
  | .mul nn mm d a b => bodyReg 7 0 nn.code mm d a b
  | .mulx nn mm d a b => bodyReg 7 1 nn.code mm d a b
  | .sdc ss mm d a b => bodyReg ss.code 0 1 mm d a b
  | .sdcx ss mm d a b => bodyReg ss.code 1 1 mm d a b
  | .ior mm d imm b => bodyImm 0 mm d imm b
  | .set mm d imm => bodyImm 0 mm d imm .zero
  | .ixor mm d imm b => bodyImm 1 mm d imm b
  | .iand mm d imm b => bodyImm 2 mm d imm b
  | .iadd mm d imm b => bodyImm 3 mm d imm b
  | .idac mm d imm b => bodyImm 4 mm d imm b
  | .idsc mm d imm b => bodyImm 5 mm d imm b
  | .iadc mm d imm b => bodyImm 6 mm d imm b
  | .imul high mm d i b => bodyImm 7 mm d (BitVec.ofNat 8 (high.toNat * 32 + i.toNat)) b
  | .cio mm clk abs obs cbs srs tim => bodyCio mm clk abs obs cbs srs tim
  | .lpi mm t => bodyLpi mm t
  | .tpa p mm x r b => bodyAux 0 p.code mm x r.val b
  | .xpa p mm x r b => bodyAux 1 p.code mm x r.val b
  | .tps p mm x b => bodyAux 2 p.code mm x 0 b
  | .rts cm mm x b => bodyAux 3 cm.code mm x 0 b
  | .tap mm x r b => bodyAux 5 0 mm x r.val b
  | .tsp mm x b => bodyAux 6 0 mm x 0 b

/-- The control word of a well-formed instruction, with its parity bit (R91). -/
def encode (i : Instr) : CWord := withParity (encodeBody i)

/-! ## The host's question -/

/-- The instruction the decoder reads from a word whose bits, as the opcode table numbers them, are
`w`. Bit 23 is parity, which decoding does not read (R91). -/
def decodeTableWord (nbits w : Nat) : Option Instr :=
  match decode (BitVec.ofNat 24 (w % 2 ^ nbits)) with
  | .ok i => some i
  | .error _ => none

end Sys2Proof
end

