-- ==== Sys2Proof/Machine/Memory.lean ====
section
/-! DEFINITION. A memory as a list of (address, value) pairs in one canonical form, used for Data
Memory (bytes, keyed by bank and address) and Control Memory (24-bit words, keyed by word address). -/

namespace Sys2Proof.Machine

/-- A memory whose locations hold `n` bits: addresses strictly rising, no entry equal to what an
unlisted address reads as. `Memory 8` is a list of `Host.Cell`. -/
abbrev Memory (n : Nat) := List (Nat × BitVec n)

/-- What an unlisted address reads as. DESIGN CHOICE zero, unsafe: the spec gives no initial
contents (R44, U1, U5; log 4 for Data Memory, log 5 for Control Memory). -/
def Memory.unlisted (n : Nat) : BitVec n := 0

/-- What address `k` reads as. -/
def Memory.get {n : Nat} : Memory n → Nat → BitVec n
  | [], _ => Memory.unlisted n
  | (a, v) :: rest, k => if a = k then v else Memory.get rest k

/-- The entry for `k` and `v` in front of `m`, none where `k` would read as `v` unlisted. -/
def Memory.consCell {n : Nat} (k : Nat) (v : BitVec n) (m : Memory n) : Memory n :=
  if v = Memory.unlisted n then m else (k, v) :: m

/-- Write `v` at `k`, keeping the canonical form. -/
def Memory.set {n : Nat} : Memory n → Nat → BitVec n → Memory n
  | [], k, v => Memory.consCell k v []
  | (a, u) :: rest, k, v =>
    if k < a then Memory.consCell k v ((a, u) :: rest)
    else if k = a then Memory.consCell k v rest
    else (a, u) :: Memory.set rest k v

/-- The canonical form. -/
abbrev Memory.wf {n : Nat} (m : Memory n) : Prop :=
  m.Pairwise (fun c c' => c.1 < c'.1) ∧ ∀ c ∈ m, c.2 ≠ Memory.unlisted n

end Sys2Proof.Machine
end

