-- ==== Sys2Proof/Machine/State.lean ====
section
/-! DEFINITION. The machine's state, the reasons it can stop, and the state after reset (spec
10_state, 60_exceptions R307, 70_reset_and_hazards R330). -/

namespace Sys2Proof.Machine

/-- One CIO as the I/O bus sees it (R311): AB after the optional clocking, OB (which is K), and the
strobes fired. -/
structure IOEvent where
  ab : Byte
  ob : Byte
  abs : Bool
  obs : Bool
  cbs : Bool
  deriving DecidableEq, Repr

/-- A step of the environment, between two instructions (R312, R314, R317, R318). -/
inductive EnvStep
  /-- A device pulses IBS with a byte on IB and the ninth line IB9. -/
  | inputStrobe (data : Byte) (ib9 : Bool)
  /-- The RDY/RB line of the selected device changes. -/
  | setReady (b : Bool)
  /-- The partition-timeout one-shot runs out. -/
  | timerExpire
  /-- The HALT/STEP key moves. -/
  | setHaltStep (b : Bool)
  deriving DecidableEq, Repr

/-- Whose turn it is (R319: instruction steps interleaved with environment steps). -/
inductive Turn
  | processor
  | environment (e : EnvStep)
  deriving DecidableEq, Repr

/-- The state of the machine. -/
structure State where
  /-- R0 to R7 (R20). -/
  r : Vector Byte 8
  /-- The high byte of the Data Memory pointer (R21). -/
  ph : Byte
  /-- The low byte of the Data Memory pointer (R21). -/
  pl : Byte
  /-- The Data Memory read register for the byte pointed to (R22). -/
  ch : Byte
  /-- The Data Memory read register for the other byte (R22). -/
  cl : Byte
  /-- The ALU result latch (R23). -/
  dum : Byte
  /-- The I/O data register (R24). -/
  k : Byte
  /-- The device address latch (R25). -/
  ab : Byte
  /-- The bank select and software status register (R26). -/
  sl : Byte
  /-- The hardware status register (R30). -/
  sh : Byte
  /-- The auxiliary registers (R27). -/
  ar : Vector Addr 32
  /-- The Control Memory address of the next instruction (R28). -/
  pc : Addr
  /-- The hardware stack, its top first (R39). -/
  stack : List Addr
  /-- Data Memory, keyed by bank * 65536 + address (R40, R63). -/
  dm : Memory 8
  /-- Control Memory, keyed by word address (R29, R73). -/
  cm : Memory 24
  /-- The output trace, in program order (R311). -/
  io : List IOEvent
  /-- The MODEL's own: the environment's script; when it is empty every turn is the processor's
  (log 14). -/
  env : List Turn
  /-- The MODEL's own: how many free values have been used (log 13). -/
  free : Nat
  deriving DecidableEq, Repr

/-- The faults: the spec's own terminal model faults (R307). Each is SAFE: the real machine does
something that the spec does not say. -/
inductive Fault
  /-- Raised by the step for a word that is no instruction, and by a meaning for an illegal
  destination (R113, R307). Safe. -/
  | illegalInstruction (why : Illegal)
  /-- Raised by JSR and TPS with 96 items on the stack (R132, R276, R307). Safe. -/
  | stackOverflow
  /-- Raised by RTS and TSP when too few items are on the stack (R277 to R281, R307). Safe. -/
  | stackUnderflow
  deriving DecidableEq, Repr

/-- The refusals: the rows `Refused` of R307, an encodable operand combination whose result the spec
does not describe. Each is SAFE. -/
inductive Refusal
  /-- Raised by the dispatch for an instruction without a meaning. Safe. -/
  | notModelled (mnemonic : String)
  /-- Raised by a 16-bit (X) form with an A, B or destination code outside 0000 to 0110 (R161, R183).
  Safe. -/
  | xFormOperand
  /-- Raised by a 16-bit (X) form with ,W1 or ,W2 (R183). Safe. -/
  | xFormWrite
  /-- Raised by a `+` or `-` A source with destination PL or PH (R181). Safe. -/
  | pointerCollision
  /-- Raised by a carry-producing operation with destination SH (R181, R230). Safe. -/
  | carryCollision
  /-- Raised by CIO with ,W1 or ,W2 (R256). Safe. -/
  | cioWrite
  deriving DecidableEq, Repr

/-- The machine right after reset (R43, R44, R330): the stack is empty; every other value is named in
the log (1, 2, 4, 5, 13, 14, 16), since the spec gives none. -/
def State.reset : State where
  r := Vector.replicate 8 0
  ph := 0
  pl := 0
  ch := 0
  cl := 0
  dum := 0
  k := 0
  ab := 0
  sl := 0
  sh := 0
  ar := Vector.replicate 32 0
  pc := Config.resetVector
  stack := []
  dm := []
  cm := []
  io := []
  env := []
  free := 0

end Sys2Proof.Machine
end

