-- ==== Sys2Proof/Machine/Ops.lean ====
section
/-! DEFINITION. The named operations over registers, the two memories, the stack, the exceptions and
the environment (spec 10_state, 20_memory, 60_exceptions). -/

namespace Sys2Proof.Machine

/-! ## Registers -/

def State.setR (s : State) (n : RegNum) (v : Byte) : State := { s with r := s.r.set n v }
def State.setPh (s : State) (v : Byte) : State := { s with ph := v }
def State.setPl (s : State) (v : Byte) : State := { s with pl := v }
def State.setChCl (s : State) (c l : Byte) : State := { s with ch := c, cl := l }
def State.setDum (s : State) (v : Byte) : State := { s with dum := v }
def State.setK (s : State) (v : Byte) : State := { s with k := v }
def State.setAb (s : State) (v : Byte) : State := { s with ab := v }
def State.setSl (s : State) (v : Byte) : State := { s with sl := v }
def State.setSh (s : State) (v : Byte) : State := { s with sh := v }
def State.setAr (s : State) (n : ArNum) (v : Addr) : State := { s with ar := s.ar.set n v }
def State.setPc (s : State) (v : Addr) : State := { s with pc := v }
def State.setStack (s : State) (v : List Addr) : State := { s with stack := v }
def State.setDm (s : State) (v : Memory 8) : State := { s with dm := v }
def State.setCm (s : State) (v : Memory 24) : State := { s with cm := v }
def State.setEnv (s : State) (v : List Turn) : State := { s with env := v }

/-- The model's own: `n` more free values have been used. -/
def State.useFree (s : State) (n : Nat) : State := { s with free := s.free + n }

/-- An I/O event, at the end of the output trace (R311). -/
def State.emit (s : State) (e : IOEvent) : State := { s with io := s.io ++ [e] }

/-- A general register's value (R20). -/
def State.x (s : State) (n : RegNum) : Byte := s.r[n]

/-- An auxiliary register's value (R27). -/
def State.aux (s : State) (n : ArNum) : Addr := s.ar[n]

/-- The 16-bit pointer `PH * 256 + PL` (R9, R21). -/
def State.phpl (s : State) : Addr := s.ph ++ s.pl

/-- The high byte of a 16-bit value (R9). -/
def highByte (v : Addr) : Byte := v.extractLsb' 8 8

/-- The low byte of a 16-bit value (R9). -/
def lowByte (v : Addr) : Byte := v.extractLsb' 0 8

/-- `PHPL <- v` (R9). -/
def State.setPhpl (s : State) (v : Addr) : State := (s.setPh (highByte v)).setPl (lowByte v)

/-! ## The status register SH (R30 to R38) -/

/-- `v` with bit `n` made `b`. -/
def setBit (v : Byte) (n : Nat) (b : Bool) : Byte :=
  if b then v ||| (1#8 <<< n) else v &&& ~~~(1#8 <<< n)

def State.setShBit (s : State) (n : Nat) (b : Bool) : State := s.setSh (setBit s.sh n b)

/-- The carry flag C, bit 0 (R31). -/
def State.carry (s : State) : Bool := s.sh.getLsbD 0

/-- `C <- b` (R9). -/
def State.setCarry (s : State) (b : Bool) : State := s.setShBit 0 b

/-- Bit 1: 0 the processor is ready for input, 1 input has arrived (R32, R316). -/
def State.ibs (s : State) : Bool := s.sh.getLsbD 1

/-- Bit 6 (R37). -/
def State.pedm (s : State) : Bool := s.sh.getLsbD 6

/-- Bit 7: 1 inhibits the PEDM vector (R38). -/
def State.dmpi (s : State) : Bool := s.sh.getLsbD 7

/-- What SH holds after a program writes `v` over `old` (R30 to R38, D22): bits 0, 1, 7 take `v`,
bit 6 can only be cleared, bits 2 to 5 are the hardware's. -/
def shAfterWrite (old v : Byte) : Byte :=
  (v &&& 0x83#8) ||| (v &&& old &&& 0x40#8) ||| (old &&& 0x3C#8)

/-! ## Data Memory (20_memory) -/

/-- The bank of an address: bank 0 below $2000, else the one SL selects (R63). -/
def bankFor (sl : Byte) (a : Addr) : Nat :=
  if a.toNat < 0x2000 then 0 else (Config.bankOfSl sl).val

/-- The key in `dm` of the physical byte reached by address `a` (R63; log 22). -/
def physAddr (sl : Byte) (a : Addr) : Nat := bankFor sl a * 65536 + a.toNat

/-- The other byte of the same 16-bit word (R61). -/
def otherByte (a : Addr) : Addr := a ^^^ 1#16

/-- DM_PRESENT of the word that holds address `a` (R72; log 9). -/
def dmPresent (sl : Byte) (a : Addr) : Bool :=
  Config.dmWordPresent (bankFor sl a) (a.extractLsb' 1 15)

/-- `MemRead(a, 1)` with the bank of `sl` (R63). -/
def State.dmRead (s : State) (sl : Byte) (a : Addr) : Byte := Memory.get s.dm (physAddr sl a)

/-- `MemWrite(a, 1, v)` with the bank of `sl` (R63); a write to absent memory is discarded (R72). -/
def State.dmWrite (s : State) (sl : Byte) (a : Addr) (v : Byte) : State :=
  if dmPresent sl a then s.setDm (Memory.set s.dm (physAddr sl a) v) else s

/-- CH and CL take unspecified values (U2, U3; log 11, 12). -/
def State.chClFree (s : State) : State :=
  (s.setChCl (Config.freeByte s.free) (Config.freeByte (s.free + 1))).useFree 2

/-- CH and CL after the read-modify-write of a ,W1 or ,W2 at pointer `ma` (R70, CHCL_AFTER_WRITE).
The counter of free values advances in every case. -/
def State.chClAfterWrite (s : State) (sl : Byte) (ma : Addr) : State :=
  match Config.chclAfterWrite with
  | .unchanged => s.useFree 2
  | .loadedOldWord =>
    if dmPresent sl ma then (s.setChCl (s.dmRead sl ma) (s.dmRead sl (otherByte ma))).useFree 2
    else s.chClFree
  | .any => s.chClFree

/-- The address a Data Memory operation writes, if it writes (R66, R67). -/
def memTarget (mm : MemOp) (ma : Addr) : Option Addr :=
  match mm with
  | .none => .none
  | .rd => .none
  | .w1 => .some ma
  | .w2 => .some (otherByte ma)

/-- `DMOp(mm, MA, data)` with the bank of `sl` (R64, R66, R67); a ,RD of absent memory sets SH bit 6
and leaves CH and CL unspecified (R72, R303). -/
def State.dmOp (s : State) (mm : MemOp) (sl : Byte) (ma : Addr) (data : Byte) : State :=
  match mm with
  | .none => s
  | .rd =>
    if dmPresent sl ma then s.setChCl (s.dmRead sl ma) (s.dmRead sl (otherByte ma))
    else s.chClFree.setShBit 6 true
  | .w1 => (s.chClAfterWrite sl ma).dmWrite sl ma data
  | .w2 => (s.chClAfterWrite sl ma).dmWrite sl (otherByte ma) data

/-- The operation is a read that the memory flags as bad (R303, D27). -/
def readFlagged (mm : MemOp) (sl : Byte) (ma : Addr) : Bool := mm == .rd && !dmPresent sl ma

/-- The operation is ,W1 or ,W2. -/
def memWrites (mm : MemOp) : Bool :=
  match mm with
  | .none => false
  | .rd => false
  | .w1 => true
  | .w2 => true

/-! ## Exceptions (60_exceptions) -/

/-- Taking an exception, either vector: `pc` is the vector address and nothing is saved (R302, R303,
R305). There is no return from it: no instruction restores a saved pc, because none is saved (R305). -/
def State.takeVector (s : State) (vector : Addr) : State := s.setPc vector

/-- The end of an instruction whose Data Memory operation was `mm` at `ma`: pc goes to `next`, or to
PEDM_VECTOR if the read was flagged and DMPI, after the instruction's own writes, is 0 (R303). -/
def State.finish (s : State) (mm : MemOp) (sl : Byte) (ma next : Addr) : State :=
  if readFlagged mm sl ma && !s.dmpi then s.takeVector Config.pedmVector else s.setPc next

/-! ## Control Memory (20_memory 3) -/

/-- `CMRead(a)` (R74): no parity check. -/
def State.cmRead (s : State) (a : Addr) : CWord := Memory.get s.cm a.toNat

/-- `CMWrite(a, w)`: changes nothing where `CM_WRITABLE(a)` is false (R75). -/
def State.cmWrite (s : State) (a : Addr) (w : CWord) : State :=
  if Config.cmWritable a then s.setCm (Memory.set s.cm a.toNat w) else s

/-- Load a word from outside the machine (R330, R331; log 6). -/
def State.cmLoad (s : State) (a : Addr) (w : CWord) : State :=
  s.setCm (Memory.set s.cm a.toNat w)

/-- The word fetched (R10 step 1, R60). -/
def State.fetch (s : State) : CWord := s.cmRead s.pc

/-- The address after the instruction's own (R28, D1). -/
def State.nextPc (s : State) : Addr := s.pc + 1

/-! ## The stack (R39) -/

/-- How many 16-bit items the stack holds (R39). -/
def stackDepth : Nat := 96

/-- `Push16` is possible (R39, D12). -/
def State.hasRoom (s : State) : Bool := s.stack.length < stackDepth

/-! ## The environment (R312, R314, R317, R318) -/

/-- A step of the environment. One that is not allowed (an input strobe while SH bit 1 is 1, the end
of a one-shot that is not running) does not happen (log 14). -/
def State.envStep (s : State) (e : EnvStep) : State :=
  match e with
  | .inputStrobe data ib9 =>
    if s.ibs then s else ((s.setK data).setShBit 2 ib9).setShBit 1 true
  | .setReady b => s.setShBit 3 b
  | .timerExpire => s.setShBit 4 false
  | .setHaltStep b => s.setShBit 5 b

end Sys2Proof.Machine
end

