-- ==== Sys2Proof/Machine/Operands.lean ====
section
/-! DEFINITION. Operand access: the A, B and C buses, register pairs, the P register control (spec
30_encoding R101 to R106, 43 R161, 44 R183). -/

namespace Sys2Proof.Machine

/-- `ReadA` (Table 1, R101). -/
def readA (a : ASrc) (s : State) : Byte :=
  match a with
  | .r n => s.x n
  | .clMinus => s.cl
  | .chMinus => s.ch
  | .cl => s.cl
  | .ch => s.ch
  | .clPlus => s.cl
  | .chPlus => s.ch
  | .zeroPlus => 0
  | .zeroMinus => 0

/-- What is added to PHPL after the operation (Table 1, R101), modulo 65536 (D24). -/
def moveOf (a : ASrc) : Addr :=
  match a with
  | .r _ => 0
  | .clMinus => 0xFFFF
  | .chMinus => 0xFFFF
  | .cl => 0
  | .ch => 0
  | .clPlus => 1
  | .chPlus => 1
  | .zeroPlus => 1
  | .zeroMinus => 0xFFFF

/-- The source is one with `+` or `-`. -/
def movesPointer (a : ASrc) : Bool :=
  match a with
  | .r _ => false
  | .clMinus => true
  | .chMinus => true
  | .cl => false
  | .ch => false
  | .clPlus => true
  | .chPlus => true
  | .zeroPlus => true
  | .zeroMinus => true

/-- Step 8 of R10: apply the `+` or `-` of the A source to PHPL. -/
def State.movePointer (s : State) (a : ASrc) : State := s.setPhpl (s.phpl + moveOf a)

/-- `ReadB` (Table 2, R102). -/
def readB (b : BSrc) (s : State) : Byte :=
  match b with
  | .r n => s.x n
  | .pl => s.pl
  | .ph => s.ph
  | .cl => s.cl
  | .ch => s.ch
  | .sl => s.sl
  | .sh => s.sh
  | .k => s.k
  | .zero => 0

/-- `WriteC` (Table 3, R103): the destination register, and always DUM. Codes 1010 and 1011 are
refused before this is reached. -/
def State.writeC (s : State) (d : Dest) (v : Byte) : State :=
  match d with
  | .r n => (s.setR n v).setDum v
  | .pl => (s.setPl v).setDum v
  | .ph => (s.setPh v).setDum v
  | .illegalA => s.setDum v
  | .illegalB => s.setDum v
  | .sl => (s.setSl v).setDum v
  | .sh => (s.setSh (shAfterWrite s.sh v)).setDum v
  | .k => (s.setK v).setDum v
  | .dum => s.setDum v

/-- The destination is PL or PH (R181). -/
def isPointer (d : Dest) : Bool :=
  match d with
  | .pl => true
  | .ph => true
  | .r _ => false
  | .illegalA => false
  | .illegalB => false
  | .sl => false
  | .sh => false
  | .k => false
  | .dum => false

/-- A register number as the low register of a pair: R0 to R6 (R161, R183). -/
def pairReg (n : RegNum) : Option (Fin 7) := if h : n.val < 7 then some ⟨n.val, h⟩ else none

/-- The pair an A code names in a 16-bit form, if it names one (R161, R183, D7). -/
def pairA (a : ASrc) : Option (Fin 7) :=
  match a with
  | .r n => pairReg n
  | .clMinus => none
  | .chMinus => none
  | .cl => none
  | .ch => none
  | .clPlus => none
  | .chPlus => none
  | .zeroPlus => none
  | .zeroMinus => none

/-- The pair a B code names in a 16-bit form, if it names one (R161, R183, D7). -/
def pairB (b : BSrc) : Option (Fin 7) :=
  match b with
  | .r n => pairReg n
  | .pl => none
  | .ph => none
  | .cl => none
  | .ch => none
  | .sl => none
  | .sh => none
  | .k => none
  | .zero => none

/-- The pair a destination code names in a 16-bit form, if it names one (R183, D7). -/
def pairD (d : Dest) : Option (Fin 7) :=
  match d with
  | .r n => pairReg n
  | .pl => none
  | .ph => none
  | .illegalA => none
  | .illegalB => none
  | .sl => none
  | .sh => none
  | .k => none
  | .dum => none

/-- The low register of a pair. -/
def pairLow (p : Fin 7) : RegNum := p.castSucc

/-- The high register of a pair, the next-numbered one (R161, R183). -/
def pairHigh (p : Fin 7) : RegNum := p.succ

/-- The 16-bit value of a pair, `x[p+1] * 256 + x[p]` (R161). -/
def State.pairValue (s : State) (p : Fin 7) : Addr := s.x (pairHigh p) ++ s.x (pairLow p)

/-- `PAdj` (R106), modulo 65536 (D24). -/
def adjustOf (p : PCtl) : Addr :=
  match p with
  | .same => 0
  | .plus1 => 1
  | .plus2 => 2
  | .plus3 => 3
  | .sameAlt => 0
  | .minus1 => 0xFFFF
  | .minus2 => 0xFFFE
  | .minus3 => 0xFFFD

/-- The value TPA, XPA and TPS store (R272). -/
def State.adjusted (s : State) (p : PCtl) : Addr := s.phpl + adjustOf p

end Sys2Proof.Machine
end

