-- ==== Sys2Proof/Machine/Flags.lean ====
section
/-! DEFINITION. The functions of the ALU, each an 8-bit result and a carry out or none, and the carry
control (spec 44_register_alu, 45_immediate_alu, 30_encoding R98, R99). -/

namespace Sys2Proof.Machine

/-- The `f` of R180, R183 and R230: A (or the constant), B, the carry in; the result, and the carry
out or `none`. -/
abbrev AluFn := Byte → Byte → Bool → Byte × Option Bool

/-- The high nibble (R7). -/
def hi (v : Byte) : Nibble := v.extractLsb' 4 4

/-- The low nibble (R7). -/
def lo (v : Byte) : Nibble := v.extractLsb' 0 4

/-- OR, ORX, IOR (R184, R231). -/
def orFn : AluFn := fun a b _ => (a ||| b, none)

/-- XOR, XORX, IXOR (R186, R233). -/
def xorFn : AluFn := fun a b _ => (a ^^^ b, none)

/-- AND, ANDX, IAND (R188, R234). -/
def andFn : AluFn := fun a b _ => (a &&& b, none)

/-- IADD (R235): neither carry in nor carry out. -/
def addFn : AluFn := fun a b _ => (BitVec.ofNat 8 (a.toNat + b.toNat), none)

/-- ADC, ADCX, IADC (R196, R238). -/
def adcFn : AluFn := fun a b cin =>
  let s := a.toNat + b.toNat + cin.toNat
  (BitVec.ofNat 8 s, some (decide (s ≥ 256)))

/-- SBC, SBCX (R190): the carry is the complement of a borrow. -/
def sbcFn : AluFn := fun a b cin =>
  let s := a.toNat + (255 - b.toNat) + cin.toNat
  (BitVec.ofNat 8 s, some (decide (s ≥ 256)))

/-- One decimal digit position of an addition (R202). -/
def dAdd (x y : Nat) (cin : Bool) : Nat × Bool :=
  let s := x + y + cin.toNat
  if s ≥ 10 then ((s - 10) % 16, true) else (s, false)

/-- One decimal digit position of a subtraction (R203); `x - y - bin` is below 0 when
`x < y + bin`, and `(s + 10) mod 16` is then `(x + 26 - y - bin) mod 16`. -/
def dSub (x y : Nat) (bin : Bool) : Nat × Bool :=
  if x < y + bin.toNat then ((x + 26 - y - bin.toNat) % 16, true) else (x - y - bin.toNat, false)

/-- DAC, DACX, IDAC (R192, R236): two digits, low digit first. -/
def dacFn : AluFn := fun a b cin =>
  let l := dAdd (lo a).toNat (lo b).toNat cin
  let h := dAdd (hi a).toNat (hi b).toNat l.2
  (BitVec.ofNat 8 (h.1 * 16 + l.1), some h.2)

/-- DSC, DSCX, IDSC (R194, R237): the carry is a borrow. -/
def dscFn : AluFn := fun a b cin =>
  let l := dSub (lo a).toNat (lo b).toNat cin
  let h := dSub (hi a).toNat (hi b).toNat l.2
  (BitVec.ofNat 8 (h.1 * 16 + l.1), some h.2)

/-- The A nibble of a selection (R99). -/
def nibbleA (n : NibSel) (a : Byte) : Nibble :=
  match n with
  | .albl => lo a
  | .ahbl => hi a
  | .albh => lo a
  | .ahbh => hi a

/-- The B nibble of a selection (R99). -/
def nibbleB (n : NibSel) (b : Byte) : Nibble :=
  match n with
  | .albl => lo b
  | .ahbl => lo b
  | .albh => hi b
  | .ahbh => hi b

/-- MUL, MULX (R198). -/
def mulFn (n : NibSel) : AluFn := fun a b _ =>
  (BitVec.ofNat 8 ((nibbleA n a).toNat * (nibbleB n b).toNat), none)

/-- SDC, SDCX (R200): the B nibble is the high one. -/
def sdcFn (n : NibSel) : AluFn := fun a b _ =>
  (BitVec.ofNat 8 ((nibbleB n b).toNat * 16 + (nibbleA n a).toNat), none)

/-- IMUL (R239): the 4-bit constant by the selected nibble of B. -/
def imulFn (high : Bool) (i : Nibble) : AluFn := fun _ b _ =>
  (BitVec.ofNat 8 (i.toNat * (if high then hi b else lo b).toNat), none)

/-- The carry control, applied before the operands are read (R98, R182). -/
def State.carryControl (s : State) (cc : CarryCtl) : State :=
  match cc with
  | .asIs => s
  | .asIsAlt => s
  | .clear => s.setCarry false
  | .set => s.setCarry true

/-- `if cout is not "none" then C <- cout` (R180, R183, R230). -/
def State.carryOut (s : State) (c : Option Bool) : State :=
  match c with
  | none => s
  | some b => s.setCarry b

/-- The mask tests of R141 to R144, on one nibble: all masked bits 1. -/
def maskedTrue (v c : Nibble) : Bool := v &&& c == c

/-- The mask tests of R141 to R144, on one nibble: all masked bits 0. -/
def maskedFalse (v c : Nibble) : Bool := v &&& c == 0

end Sys2Proof.Machine
end

