-- ==== Sys2Proof/Machine/Skeleton.lean ====
section
/-! DEFINITION. The common execution of each family, over which every meaning is one line (spec 41
R140, 42 R150, 43 R160, R161, 44 R180, R183, 45 R230, 48 R270). -/

namespace Sys2Proof.Machine

/-- What an instruction answers. -/
abbrev Result := Host.Outcome State Fault Refusal

/-! ## Conditional branches -/

/-- `(pc & $FC00) | x`: the page of the branch's own address (R140, D2). -/
def State.pageTarget (s : State) (x : BitVec 10) : Addr := (s.pc &&& 0xFC00#16) ||| x.setWidth 16

/-- `if cond then pc <- target else pc <- pc + 1` (R140, R150, R160). -/
def State.branch (s : State) (cond : Bool) (x : BitVec 10) : State :=
  s.setPc (if cond then s.pageTarget x else s.nextPc)

/-- The Masked and Valued Branches (R140, R150): a test of the B value. -/
def testBranch (test : Byte → Bool) (x : BitVec 10) (b : BSrc) (s : State) : Result :=
  .next (s.branch (test (readB b s)) x)

/-- The 8-bit comparison branches (R160); the A source's `+` or `-` is applied, taken or not. -/
def compareBranch (test : Byte → Byte → Bool) (x : BitVec 10) (a : ASrc) (b : BSrc) (s : State) :
    Result :=
  .next ((s.branch (test (readA a s) (readB b s)) x).movePointer a)

/-- The 16-bit comparison branches (R161); an operand without a partner is refused (D7). -/
def compareBranchX (test : Addr → Addr → Bool) (x : BitVec 10) (a : ASrc) (b : BSrc) (s : State) :
    Result :=
  match pairA a, pairB b with
  | some p, some q => .next (s.branch (test (s.pairValue p) (s.pairValue q)) x)
  | _, _ => .refused .xFormOperand

/-! ## ALU -/

/-- `RA8(f)` (R180), from the state after the carry control; the pointer and the bank are latched
first (R63, R65), and neither is changed by the carry control. -/
def State.runReg8 (s : State) (f : AluFn) (mm : MemOp) (d : Dest) (a : ASrc) (b : BSrc) : State :=
  let res := f (readA a s) (readB b s) s.carry
  ((((s.writeC d res.1).carryOut res.2).dmOp mm s.sl s.phpl res.1).movePointer a).finish
    mm s.sl s.phpl s.nextPc

/-- An 8-bit Register ALU instruction (R180, R181): the forms the spec refuses, then `RA8(f)`. A
collision with SH is one of operations that produce a carry. -/
def regAlu (f : AluFn) (producesCarry : Bool) (cc : CarryCtl) (mm : MemOp) (d : Dest) (a : ASrc)
    (b : BSrc) (s : State) : Result :=
  if !d.isLegal then .fault (.illegalInstruction .destination)
  else if isPointer d && movesPointer a then .refused .pointerCollision
  else if producesCarry && d == .sh then .refused .carryCollision
  else .next ((s.carryControl cc).runReg8 f mm d a b)

/-- `RA16(f)` (R183), from the state after the carry control: all four source bytes are read before
either result byte is written. DUM is not stated and takes a free value (log 12). -/
def State.runReg16 (s : State) (f : AluFn) (mm : MemOp) (d a b : Fin 7) : State :=
  let resL := f (s.x (pairLow a)) (s.x (pairLow b)) s.carry
  let resH := f (s.x (pairHigh a)) (s.x (pairHigh b)) (resL.2.getD s.carry)
  let s1 := (((s.setR (pairLow d) resL.1).setR (pairHigh d) resH.1).carryOut resH.2)
  let s2 := (s1.setDum (Config.freeByte s1.free)).useFree 1
  (s2.dmOp mm s.sl s.phpl 0).finish mm s.sl s.phpl s.nextPc

/-- A 16-bit Register ALU instruction (R183): an operand without a partner and a write are refused
(D7, D8). -/
def regAluX (f : AluFn) (cc : CarryCtl) (mm : MemOp) (d : Dest) (a : ASrc) (b : BSrc) (s : State) :
    Result :=
  match pairD d, pairA a, pairB b with
  | some d', some a', some b' =>
    if memWrites mm then .refused .xFormWrite else .next ((s.carryControl cc).runReg16 f mm d' a' b')
  | _, _, _ => .refused .xFormOperand

/-- `IM8(f)` (R230). -/
def State.runImm (s : State) (f : AluFn) (mm : MemOp) (d : Dest) (imm : Byte) (b : BSrc) : State :=
  let res := f imm (readB b s) s.carry
  (((s.writeC d res.1).carryOut res.2).dmOp mm s.sl s.phpl res.1).finish mm s.sl s.phpl s.nextPc

/-- An Immediate ALU instruction (R230): the forms the spec refuses, then `IM8(f)`. -/
def immAlu (f : AluFn) (producesCarry : Bool) (mm : MemOp) (d : Dest) (imm : Byte) (b : BSrc)
    (s : State) : Result :=
  if !d.isLegal then .fault (.illegalInstruction .destination)
  else if producesCarry && d == .sh then .refused .carryCollision
  else .next (s.runImm f mm d imm b)

/-! ## Stack and auxiliary registers -/

/-- `MI(body)` (R270, R271): the pointer, the bank and the B value are those of before the
instruction. -/
def State.runAux (s : State) (mm : MemOp) (b : BSrc) (body : State → State) (next : Addr) : State :=
  (((body s).setDum (readB b s)).dmOp mm s.sl s.phpl (readB b s)).finish mm s.sl s.phpl next

/-- `Push16(v)`, then `go` (R39): a push on a full stack is `StackOverflow` (D12). -/
def pushThen (s : State) (v : Addr) (go : State → State) : Result :=
  if s.hasRoom then .next (go (s.setStack (v :: s.stack))) else .fault .stackOverflow

/-- One `Pop16()`, then `go` with the item (R39): on an empty stack `StackUnderflow` (D12). -/
def popThen (s : State) (go : Addr → List Addr → State) : Result :=
  match s.stack with
  | [] => .fault .stackUnderflow
  | v :: rest => .next (go v rest)

/-- Two `Pop16()`, then `go` with both items, the first popped first (R279): with fewer than two
items `StackUnderflow` (D12). -/
def popTwoThen (s : State) (go : Addr → Addr → List Addr → State) : Result :=
  match s.stack with
  | [] => .fault .stackUnderflow
  | [_] => .fault .stackUnderflow
  | v :: u :: rest => .next (go v u rest)

end Sys2Proof.Machine
end

