-- ==== Sys2Proof/Machine/Branch.lean ====
section
/-! DEFINITION. The branch instructions JMP and JSR (spec 40_branch). -/

namespace Sys2Proof.Machine

/-- JMP (R131): only pc changes. -/
def execJmp (target : Addr) (s : State) : Result := .next (s.setPc target)

/-- JSR (R132): the address after the JSR is pushed, pc goes to the target. -/
def execJsr (target : Addr) (s : State) : Result :=
  pushThen s s.nextPc (fun s' => s'.setPc target)

end Sys2Proof.Machine
end

