-- ==== Sys2Proof/Machine/CompareBranch.lean ====
section
/-! DEFINITION. The Register Comparison Branch instructions, all unsigned (spec 43_register_compare_branch). -/

namespace Sys2Proof.Machine

/-- BLR (R162): taken if A < B, 8 bits. -/
def execBlr (x : BitVec 10) (a : ASrc) (b : BSrc) (s : State) : Result :=
  compareBranch (fun u v => decide (u.toNat < v.toNat)) x a b s

/-- BLER (R164): taken if A <= B, 8 bits. -/
def execBler (x : BitVec 10) (a : ASrc) (b : BSrc) (s : State) : Result :=
  compareBranch (fun u v => decide (u.toNat ≤ v.toNat)) x a b s

/-- BER (R166): taken if A = B, 8 bits. -/
def execBer (x : BitVec 10) (a : ASrc) (b : BSrc) (s : State) : Result :=
  compareBranch (fun u v => u == v) x a b s

/-- BNR (R167): taken if A <> B, 8 bits. -/
def execBnr (x : BitVec 10) (a : ASrc) (b : BSrc) (s : State) : Result :=
  compareBranch (fun u v => u != v) x a b s

/-- BLRX (R163): taken if A < B, 16 bits. -/
def execBlrx (x : BitVec 10) (a : ASrc) (b : BSrc) (s : State) : Result :=
  compareBranchX (fun u v => decide (u.toNat < v.toNat)) x a b s

/-- BLEX (R165): taken if A <= B, 16 bits. -/
def execBlex (x : BitVec 10) (a : ASrc) (b : BSrc) (s : State) : Result :=
  compareBranchX (fun u v => decide (u.toNat ≤ v.toNat)) x a b s

/-- BEZ (R168): taken if A = 0; the B source is the constant 0. -/
def execBez (x : BitVec 10) (a : ASrc) (s : State) : Result :=
  compareBranch (fun u v => u == v) x a .zero s

/-- BNZ (R169): taken if A <> 0; the B source is the constant 0. -/
def execBnz (x : BitVec 10) (a : ASrc) (s : State) : Result :=
  compareBranch (fun u v => u != v) x a .zero s

end Sys2Proof.Machine
end

