-- ==== Sys2Proof/Machine/ImmediateAlu.lean ====
section
/-! DEFINITION. The Immediate Data ALU instructions (spec 45_immediate_alu). -/

namespace Sys2Proof.Machine

/-- IOR (R231). -/
def execIor (mm : MemOp) (d : Dest) (imm : Byte) (b : BSrc) (s : State) : Result :=
  immAlu orFn false mm d imm b s

/-- IXOR (R233). -/
def execIxor (mm : MemOp) (d : Dest) (imm : Byte) (b : BSrc) (s : State) : Result :=
  immAlu xorFn false mm d imm b s

/-- IAND (R234). -/
def execIand (mm : MemOp) (d : Dest) (imm : Byte) (b : BSrc) (s : State) : Result :=
  immAlu andFn false mm d imm b s

/-- IADD (R235). -/
def execIadd (mm : MemOp) (d : Dest) (imm : Byte) (b : BSrc) (s : State) : Result :=
  immAlu addFn false mm d imm b s

/-- IDAC (R236). -/
def execIdac (mm : MemOp) (d : Dest) (imm : Byte) (b : BSrc) (s : State) : Result :=
  immAlu dacFn true mm d imm b s

/-- IDSC (R237). -/
def execIdsc (mm : MemOp) (d : Dest) (imm : Byte) (b : BSrc) (s : State) : Result :=
  immAlu dscFn true mm d imm b s

/-- IADC (R238). -/
def execIadc (mm : MemOp) (d : Dest) (imm : Byte) (b : BSrc) (s : State) : Result :=
  immAlu adcFn true mm d imm b s

/-- SET (R232): IOR with the constant 0 as B source. -/
def execSet (mm : MemOp) (d : Dest) (imm : Byte) (s : State) : Result :=
  immAlu orFn false mm d imm .zero s

/-- IMUL (R239): the constant is the 4-bit `i`. -/
def execImul (high : Bool) (mm : MemOp) (d : Dest) (i : Nibble) (b : BSrc) (s : State) : Result :=
  immAlu (imulFn high i) false mm d 0 b s

end Sys2Proof.Machine
end

