-- ==== Sys2Proof/Machine/LoadPointer.lean ====
section
/-! DEFINITION. The Load Data Memory Pointer instruction LPI (spec 47_load_pointer). -/

namespace Sys2Proof.Machine

/-- LPI (R260): PHPL is loaded first and the Data Memory operation is at the new pointer; a write
clears the byte. DUM is not stated and takes a free value (log 12). -/
def execLpi (mm : MemOp) (addr : Addr) (s : State) : Result :=
  let s1 := ((s.setPhpl addr).setDum (Config.freeByte s.free)).useFree 1
  .next ((s1.dmOp mm s.sl addr 0).finish mm s.sl addr s.nextPc)

end Sys2Proof.Machine
end

