-- ==== Sys2Proof/Machine/MaskedBranch.lean ====
section
/-! DEFINITION. The Masked Branch instructions (spec 41_masked_branch). -/

namespace Sys2Proof.Machine

/-- BTL (R141): taken if all masked bits of the low nibble are 1. -/
def execBtl (x : BitVec 10) (c : Nibble) (b : BSrc) (s : State) : Result :=
  testBranch (fun v => maskedTrue (lo v) c) x b s

/-- BTH (R142): taken if all masked bits of the high nibble are 1. -/
def execBth (x : BitVec 10) (c : Nibble) (b : BSrc) (s : State) : Result :=
  testBranch (fun v => maskedTrue (hi v) c) x b s

/-- BFL (R143): taken if all masked bits of the low nibble are 0. -/
def execBfl (x : BitVec 10) (c : Nibble) (b : BSrc) (s : State) : Result :=
  testBranch (fun v => maskedFalse (lo v) c) x b s

/-- BFH (R144): taken if all masked bits of the high nibble are 0. -/
def execBfh (x : BitVec 10) (c : Nibble) (b : BSrc) (s : State) : Result :=
  testBranch (fun v => maskedFalse (hi v) c) x b s

end Sys2Proof.Machine
end

