-- ==== Sys2Proof/Machine/Peripheral.lean ====
section
/-! DEFINITION. The Peripheral Control instruction CIO (spec 46_peripheral_control). -/

namespace Sys2Proof.Machine

/-- The actions of a CIO (R250, R251): AB is clocked from K first, then the event is emitted (R311),
then the two one-shots fire (R252, R253). -/
def State.runCio (s : State) (clk abs obs cbs srs tim : Bool) : State :=
  let s1 := if clk then s.setAb s.k else s
  let s2 := s1.emit ⟨s1.ab, s1.k, abs, obs, cbs⟩
  let s3 := if srs then s2.setShBit 1 true else s2
  if tim then s3.setShBit 4 true else s3

/-- CIO (R250); ,W1 and ,W2 are refused (R256, D20). -/
def execCio (mm : MemOp) (clk abs obs cbs srs tim : Bool) (s : State) : Result :=
  if memWrites mm then .refused .cioWrite
  else
    .next (((s.runCio clk abs obs cbs srs tim).dmOp mm s.sl s.phpl 0).finish mm s.sl s.phpl
      s.nextPc)

end Sys2Proof.Machine
end

