-- ==== Sys2Proof/Machine/RegisterAlu.lean ====
section
/-! DEFINITION. The Register ALU instructions, 8-bit and 16-bit (X) forms (spec 44_register_alu). -/

namespace Sys2Proof.Machine

/-- OR (R184). -/
def execOr (cc : CarryCtl) (mm : MemOp) (d : Dest) (a : ASrc) (b : BSrc) (s : State) : Result :=
  regAlu orFn false cc mm d a b s

/-- ORX (R185). -/
def execOrx (cc : CarryCtl) (mm : MemOp) (d : Dest) (a : ASrc) (b : BSrc) (s : State) : Result :=
  regAluX orFn cc mm d a b s

/-- XOR (R186). -/
def execXor (cc : CarryCtl) (mm : MemOp) (d : Dest) (a : ASrc) (b : BSrc) (s : State) : Result :=
  regAlu xorFn false cc mm d a b s

/-- XORX (R187). -/
def execXorx (cc : CarryCtl) (mm : MemOp) (d : Dest) (a : ASrc) (b : BSrc) (s : State) : Result :=
  regAluX xorFn cc mm d a b s

/-- AND (R188). -/
def execAnd (cc : CarryCtl) (mm : MemOp) (d : Dest) (a : ASrc) (b : BSrc) (s : State) : Result :=
  regAlu andFn false cc mm d a b s

/-- ANDX (R189). -/
def execAndx (cc : CarryCtl) (mm : MemOp) (d : Dest) (a : ASrc) (b : BSrc) (s : State) : Result :=
  regAluX andFn cc mm d a b s

/-- SBC (R190). -/
def execSbc (cc : CarryCtl) (mm : MemOp) (d : Dest) (a : ASrc) (b : BSrc) (s : State) : Result :=
  regAlu sbcFn true cc mm d a b s

/-- SBCX (R191). -/
def execSbcx (cc : CarryCtl) (mm : MemOp) (d : Dest) (a : ASrc) (b : BSrc) (s : State) : Result :=
  regAluX sbcFn cc mm d a b s

/-- DAC (R192). -/
def execDac (cc : CarryCtl) (mm : MemOp) (d : Dest) (a : ASrc) (b : BSrc) (s : State) : Result :=
  regAlu dacFn true cc mm d a b s

/-- DACX (R193). -/
def execDacx (cc : CarryCtl) (mm : MemOp) (d : Dest) (a : ASrc) (b : BSrc) (s : State) : Result :=
  regAluX dacFn cc mm d a b s

/-- DSC (R194). -/
def execDsc (cc : CarryCtl) (mm : MemOp) (d : Dest) (a : ASrc) (b : BSrc) (s : State) : Result :=
  regAlu dscFn true cc mm d a b s

/-- DSCX (R195). -/
def execDscx (cc : CarryCtl) (mm : MemOp) (d : Dest) (a : ASrc) (b : BSrc) (s : State) : Result :=
  regAluX dscFn cc mm d a b s

/-- ADC (R196). -/
def execAdc (cc : CarryCtl) (mm : MemOp) (d : Dest) (a : ASrc) (b : BSrc) (s : State) : Result :=
  regAlu adcFn true cc mm d a b s

/-- ADCX (R197). -/
def execAdcx (cc : CarryCtl) (mm : MemOp) (d : Dest) (a : ASrc) (b : BSrc) (s : State) : Result :=
  regAluX adcFn cc mm d a b s

/-- MUL (R198): no carry control. -/
def execMul (nn : NibSel) (mm : MemOp) (d : Dest) (a : ASrc) (b : BSrc) (s : State) : Result :=
  regAlu (mulFn nn) false .asIs mm d a b s

/-- MULX (R199): no carry control, each byte separately. -/
def execMulx (nn : NibSel) (mm : MemOp) (d : Dest) (a : ASrc) (b : BSrc) (s : State) : Result :=
  regAluX (mulFn nn) .asIs mm d a b s

/-- SDC (R200): no carry control. -/
def execSdc (ss : NibSel) (mm : MemOp) (d : Dest) (a : ASrc) (b : BSrc) (s : State) : Result :=
  regAlu (sdcFn ss) false .asIs mm d a b s

/-- SDCX (R201): no carry control, each byte separately. -/
def execSdcx (ss : NibSel) (mm : MemOp) (d : Dest) (a : ASrc) (b : BSrc) (s : State) : Result :=
  regAluX (sdcFn ss) .asIs mm d a b s

end Sys2Proof.Machine
end

