-- ==== Sys2Proof/Machine/StackAux.lean ====
section
/-! DEFINITION. The Stack and Auxiliary Register instructions (spec 48_stack_aux). -/

namespace Sys2Proof.Machine

/-- TPA (R273): the adjusted pointer goes to the auxiliary register; PHPL is unchanged. -/
def execTpa (p : PCtl) (mm : MemOp) (_x : Bool) (r : ArNum) (b : BSrc) (s : State) : Result :=
  .next (s.runAux mm b (fun s' => s'.setAr r (s.adjusted p)) s.nextPc)

/-- XPA (R274): the auxiliary register takes the adjusted pointer, PHPL the old auxiliary register. -/
def execXpa (p : PCtl) (mm : MemOp) (_x : Bool) (r : ArNum) (b : BSrc) (s : State) : Result :=
  .next (s.runAux mm b (fun s' => (s'.setAr r (s.adjusted p)).setPhpl (s.aux r)) s.nextPc)

/-- TAP (R275): PHPL takes the auxiliary register. -/
def execTap (mm : MemOp) (_x : Bool) (r : ArNum) (b : BSrc) (s : State) : Result :=
  .next (s.runAux mm b (fun s' => s'.setPhpl (s.aux r)) s.nextPc)

/-- TPS (R276): the adjusted pointer is pushed; PHPL is unchanged. -/
def execTps (p : PCtl) (mm : MemOp) (_x : Bool) (b : BSrc) (s : State) : Result :=
  pushThen s (s.adjusted p) (fun s' => s'.runAux mm b id s.nextPc)

/-- TSP (R277): PHPL takes the popped item. -/
def execTsp (mm : MemOp) (_x : Bool) (b : BSrc) (s : State) : Result :=
  popThen s (fun v rest => s.runAux mm b (fun s' => (s'.setStack rest).setPhpl v) s.nextPc)

/-- The word RTS ,WC writes: `(~K) : PH : PL` (R74, R280). -/
def State.controlWord (s : State) : CWord := (~~~s.k ++ s.ph) ++ s.pl

/-- K, PH and PL take the three bytes of a word (R281). -/
def State.setControlWord (s : State) (w : CWord) : State :=
  ((s.setK (w.extractLsb' 16 8)).setPh (w.extractLsb' 8 8)).setPl (w.extractLsb' 0 8)

/-- The plain return (R278). -/
def rtsPlain (mm : MemOp) (b : BSrc) (s : State) : Result :=
  popThen s (fun next rest => s.runAux mm b (fun s' => s'.setStack rest) next)

/-- RTS ,WC (R279, R280): the first item popped is the Control Memory address, the second the return
address. -/
def rtsWrite (mm : MemOp) (b : BSrc) (s : State) : Result :=
  popTwoThen s (fun a next rest =>
    s.runAux mm b (fun s' => (s'.setStack rest).cmWrite a s.controlWord) next)

/-- RTS ,RC (R279, R281): no parity check, K not complemented (D17). -/
def rtsRead (mm : MemOp) (b : BSrc) (s : State) : Result :=
  popTwoThen s (fun a next rest =>
    s.runAux mm b (fun s' => (s'.setStack rest).setControlWord (s.cmRead a)) next)

/-- RTS (R278 to R281): by the Control Memory control (Table 5, R105). -/
def execRts (cm : CmCtl) (mm : MemOp) (_x : Bool) (b : BSrc) (s : State) : Result :=
  match cm with
  | .noOp => rtsPlain mm b s
  | .noOpAlt => rtsPlain mm b s
  | .write => rtsWrite mm b s
  | .read => rtsRead mm b s

end Sys2Proof.Machine
end

