-- ==== Sys2Proof/Machine/ValuedBranch.lean ====
section
/-! DEFINITION. The Valued Branch instructions (spec 42_valued_branch). -/

namespace Sys2Proof.Machine

/-- BEL (R151): taken if the low nibble equals the constant. -/
def execBel (x : BitVec 10) (c : Nibble) (b : BSrc) (s : State) : Result :=
  testBranch (fun v => lo v == c) x b s

/-- BEH (R152): taken if the high nibble equals the constant. -/
def execBeh (x : BitVec 10) (c : Nibble) (b : BSrc) (s : State) : Result :=
  testBranch (fun v => hi v == c) x b s

/-- BNL (R153): taken if the low nibble differs from the constant. -/
def execBnl (x : BitVec 10) (c : Nibble) (b : BSrc) (s : State) : Result :=
  testBranch (fun v => lo v != c) x b s

/-- BNH (R154): taken if the high nibble differs from the constant. -/
def execBnh (x : BitVec 10) (c : Nibble) (b : BSrc) (s : State) : Result :=
  testBranch (fun v => hi v != c) x b s

end Sys2Proof.Machine
end

