-- ==== Sys2Proof/Machine/Dispatch.lean ====
section
/-! DEFINITION. The dispatch: one arm per instruction, one direct call of its meaning. -/

namespace Sys2Proof.Machine

def exec (i : Instr) (s : State) : Host.Outcome State Fault Refusal :=
  match i with
  | .jmp target => Sys2Proof.Machine.execJmp target s
  | .jsr target => Sys2Proof.Machine.execJsr target s
  | .btl x c b => Sys2Proof.Machine.execBtl x c b s
  | .bth x c b => Sys2Proof.Machine.execBth x c b s
  | .bfl x c b => Sys2Proof.Machine.execBfl x c b s
  | .bfh x c b => Sys2Proof.Machine.execBfh x c b s
  | .bel x c b => Sys2Proof.Machine.execBel x c b s
  | .beh x c b => Sys2Proof.Machine.execBeh x c b s
  | .bnl x c b => Sys2Proof.Machine.execBnl x c b s
  | .bnh x c b => Sys2Proof.Machine.execBnh x c b s
  | .blr x a b => Sys2Proof.Machine.execBlr x a b s
  | .blrx x a b => Sys2Proof.Machine.execBlrx x a b s
  | .bler x a b => Sys2Proof.Machine.execBler x a b s
  | .blex x a b => Sys2Proof.Machine.execBlex x a b s
  | .ber x a b => Sys2Proof.Machine.execBer x a b s
  | .bnr x a b => Sys2Proof.Machine.execBnr x a b s
  | .bez x a => Sys2Proof.Machine.execBez x a s
  | .bnz x a => Sys2Proof.Machine.execBnz x a s
  | .or cc mm d a b => Sys2Proof.Machine.execOr cc mm d a b s
  | .orx cc mm d a b => Sys2Proof.Machine.execOrx cc mm d a b s
  | .xor cc mm d a b => Sys2Proof.Machine.execXor cc mm d a b s
  | .xorx cc mm d a b => Sys2Proof.Machine.execXorx cc mm d a b s
  | .and cc mm d a b => Sys2Proof.Machine.execAnd cc mm d a b s
  | .andx cc mm d a b => Sys2Proof.Machine.execAndx cc mm d a b s
  | .sbc cc mm d a b => Sys2Proof.Machine.execSbc cc mm d a b s
  | .sbcx cc mm d a b => Sys2Proof.Machine.execSbcx cc mm d a b s
  | .dac cc mm d a b => Sys2Proof.Machine.execDac cc mm d a b s
  | .dacx cc mm d a b => Sys2Proof.Machine.execDacx cc mm d a b s
  | .dsc cc mm d a b => Sys2Proof.Machine.execDsc cc mm d a b s
  | .dscx cc mm d a b => Sys2Proof.Machine.execDscx cc mm d a b s
  | .adc cc mm d a b => Sys2Proof.Machine.execAdc cc mm d a b s
  | .adcx cc mm d a b => Sys2Proof.Machine.execAdcx cc mm d a b s
  | .mul nn mm d a b => Sys2Proof.Machine.execMul nn mm d a b s
  | .mulx nn mm d a b => Sys2Proof.Machine.execMulx nn mm d a b s
  | .sdc ss mm d a b => Sys2Proof.Machine.execSdc ss mm d a b s
  | .sdcx ss mm d a b => Sys2Proof.Machine.execSdcx ss mm d a b s
  | .ior mm d imm b => Sys2Proof.Machine.execIor mm d imm b s
  | .set mm d imm => Sys2Proof.Machine.execSet mm d imm s
  | .ixor mm d imm b => Sys2Proof.Machine.execIxor mm d imm b s
  | .iand mm d imm b => Sys2Proof.Machine.execIand mm d imm b s
  | .iadd mm d imm b => Sys2Proof.Machine.execIadd mm d imm b s
  | .idac mm d imm b => Sys2Proof.Machine.execIdac mm d imm b s
  | .idsc mm d imm b => Sys2Proof.Machine.execIdsc mm d imm b s
  | .iadc mm d imm b => Sys2Proof.Machine.execIadc mm d imm b s
  | .imul high mm d n b => Sys2Proof.Machine.execImul high mm d n b s
  | .cio mm clk abs obs cbs srs tim => Sys2Proof.Machine.execCio mm clk abs obs cbs srs tim s
  | .lpi mm addr => Sys2Proof.Machine.execLpi mm addr s
  | .tpa p mm x r b => Sys2Proof.Machine.execTpa p mm x r b s
  | .xpa p mm x r b => Sys2Proof.Machine.execXpa p mm x r b s
  | .tap mm x r b => Sys2Proof.Machine.execTap mm x r b s
  | .tps p mm x b => Sys2Proof.Machine.execTps p mm x b s
  | .tsp mm x b => Sys2Proof.Machine.execTsp mm x b s
  | .rts cm mm x b => Sys2Proof.Machine.execRts cm mm x b s

end Sys2Proof.Machine
end

