-- ==== Sys2Proof/Machine/Cycle.lean ====
section
/-! DEFINITION. One turn of the processor: fetch, parity check, decode, execute (spec 00_scope R10,
60_exceptions R301, R304). -/

namespace Sys2Proof.Machine

/-- A fetched word: even parity is PECM, before anything else (R301, R302, R304, D25); a word that is
no instruction is `IllegalInstruction` (R113); else the instruction runs. -/
def runWord (w : CWord) (s : State) : Result :=
  if oddParity w then
    match decode w with
    | .ok i => exec i s
    | .error why => .fault (.illegalInstruction why)
  else .next (s.takeVector Config.pecmVector)

/-- One instruction step. -/
def instructionStep (s : State) : Result := runWord s.fetch s

/-- The turn at the head of the environment's script, or the processor's when it is empty (R319). -/
def turn (s : State) : Result :=
  match s.env with
  | [] => instructionStep s
  | .processor :: rest => instructionStep (s.setEnv rest)
  | .environment e :: rest => .next ((s.setEnv rest).envStep e)

/-- Place a word where the next turn fetches it, with the parity bit R91 and R332 ask of whoever
writes it, and make that turn the processor's (log 6). -/
def placeWord (s : State) (w : Nat) : State := (s.cmLoad s.pc (withParity w)).setEnv []

end Sys2Proof.Machine
end

