-- ==== Sys2Proof/Machine/Step.lean ====
section
/-! DEFINITION. The step of the machine, and the word the next step fetches. -/

namespace Sys2Proof.Machine

/-- One step: a turn of the processor or of the environment (R319). -/
def step (s : State) : Host.Outcome State Fault Refusal := turn s

/-- `s` with the instruction whose bits are `w` stored where `step` fetches its next instruction; bits
above `nbits` are 0 and bit 23 is the parity bit the instruction needs (log 6). -/
def State.withFetchWord (s : State) (nbits w : Nat) : State := placeWord s (w % 2 ^ nbits)

end Sys2Proof.Machine
end

