-- ==== Sys2Proof/Safety.lean ====
section
/-! DEFINITION. What a safe run is, the invariant of the machine, and the words the statements are
written in: what an instruction of each family leaves in each piece of state. -/

namespace Sys2Proof.Machine

/-! ## Runs and the invariant -/

/-- A run of `n` steps from `s` meets no model fault and no refusal (R307). -/
def State.runsSafely (s : State) (n : Nat) : Prop := ∃ t, Host.Core.run Sys2Proof.core n s = .next t

/-- The key `k` of `dm` is a physical byte that an instruction can reach: its bank is fitted, below
$2000 it is in bank 0, and its word is present (R63, R72). -/
def reachableDm (k : Nat) : Prop :=
  k / 65536 < Config.nbanks ∧ (k % 65536 < 0x2000 → k / 65536 = 0) ∧
    Config.dmWordPresent (k / 65536) (BitVec.ofNat 15 (k % 65536 / 2)) = true

/-- The invariant: both memories in canonical form and within their address spaces (R61, R63, R72,
R73), the stack within its depth (R39). -/
structure State.Inv (s : State) : Prop where
  dmForm : Memory.wf s.dm
  dmReach : ∀ c ∈ s.dm, reachableDm c.1
  cmForm : Memory.wf s.cm
  cmSpace : ∀ c ∈ s.cm, c.1 < 65536
  stackDepth : s.stack.length ≤ 96

/-! ## What an instruction does to memory -/

/-- The Data Memory field of an instruction; the branches have none (R66). -/
def memOpOf (i : Instr) : MemOp :=
  match i with
  | .jmp _ | .jsr _ => .none
  | .btl _ _ _ | .bth _ _ _ | .bfl _ _ _ | .bfh _ _ _ => .none
  | .bel _ _ _ | .beh _ _ _ | .bnl _ _ _ | .bnh _ _ _ => .none
  | .blr _ _ _ | .blrx _ _ _ | .bler _ _ _ | .blex _ _ _ | .ber _ _ _ | .bnr _ _ _ => .none
  | .bez _ _ | .bnz _ _ => .none
  | .or _ mm _ _ _ | .orx _ mm _ _ _ | .xor _ mm _ _ _ | .xorx _ mm _ _ _ => mm
  | .and _ mm _ _ _ | .andx _ mm _ _ _ | .sbc _ mm _ _ _ | .sbcx _ mm _ _ _ => mm
  | .dac _ mm _ _ _ | .dacx _ mm _ _ _ | .dsc _ mm _ _ _ | .dscx _ mm _ _ _ => mm
  | .adc _ mm _ _ _ | .adcx _ mm _ _ _ | .mul _ mm _ _ _ | .mulx _ mm _ _ _ => mm
  | .sdc _ mm _ _ _ | .sdcx _ mm _ _ _ => mm
  | .ior mm _ _ _ | .ixor mm _ _ _ | .iand mm _ _ _ | .iadd mm _ _ _ => mm
  | .idac mm _ _ _ | .idsc mm _ _ _ | .iadc mm _ _ _ => mm
  | .set mm _ _ => mm
  | .imul _ mm _ _ _ => mm
  | .cio mm _ _ _ _ _ _ => mm
  | .lpi mm _ => mm
  | .tpa _ mm _ _ _ | .xpa _ mm _ _ _ | .tap mm _ _ _ | .tps _ mm _ _ | .tsp mm _ _ => mm
  | .rts _ mm _ _ => mm

/-- The instruction is a branch: it has no Data Memory field (R66). -/
def isBranch (i : Instr) : Bool :=
  match i with
  | .jmp _ | .jsr _ => true
  | .btl _ _ _ | .bth _ _ _ | .bfl _ _ _ | .bfh _ _ _ => true
  | .bel _ _ _ | .beh _ _ _ | .bnl _ _ _ | .bnh _ _ _ => true
  | .blr _ _ _ | .blrx _ _ _ | .bler _ _ _ | .blex _ _ _ | .ber _ _ _ | .bnr _ _ _ => true
  | .bez _ _ | .bnz _ _ => true
  | .or _ _ _ _ _ | .orx _ _ _ _ _ | .xor _ _ _ _ _ | .xorx _ _ _ _ _ => false
  | .and _ _ _ _ _ | .andx _ _ _ _ _ | .sbc _ _ _ _ _ | .sbcx _ _ _ _ _ => false
  | .dac _ _ _ _ _ | .dacx _ _ _ _ _ | .dsc _ _ _ _ _ | .dscx _ _ _ _ _ => false
  | .adc _ _ _ _ _ | .adcx _ _ _ _ _ | .mul _ _ _ _ _ | .mulx _ _ _ _ _ => false
  | .sdc _ _ _ _ _ | .sdcx _ _ _ _ _ => false
  | .ior _ _ _ _ | .ixor _ _ _ _ | .iand _ _ _ _ | .iadd _ _ _ _ => false
  | .idac _ _ _ _ | .idsc _ _ _ _ | .iadc _ _ _ _ => false
  | .set _ _ _ => false
  | .imul _ _ _ _ _ => false
  | .cio _ _ _ _ _ _ _ => false
  | .lpi _ _ => false
  | .tpa _ _ _ _ _ | .xpa _ _ _ _ _ | .tap _ _ _ _ | .tps _ _ _ _ | .tsp _ _ _ => false
  | .rts _ _ _ _ => false

/-- The address the memory latches: the new pointer for LPI, else the pointer before the instruction
(R65, R260). -/
def latchOf (i : Instr) (s : State) : Addr :=
  match i with
  | .lpi _ addr => addr
  | .jmp _ | .jsr _ => s.phpl
  | .btl _ _ _ | .bth _ _ _ | .bfl _ _ _ | .bfh _ _ _ => s.phpl
  | .bel _ _ _ | .beh _ _ _ | .bnl _ _ _ | .bnh _ _ _ => s.phpl
  | .blr _ _ _ | .blrx _ _ _ | .bler _ _ _ | .blex _ _ _ | .ber _ _ _ | .bnr _ _ _ => s.phpl
  | .bez _ _ | .bnz _ _ => s.phpl
  | .or _ _ _ _ _ | .orx _ _ _ _ _ | .xor _ _ _ _ _ | .xorx _ _ _ _ _ => s.phpl
  | .and _ _ _ _ _ | .andx _ _ _ _ _ | .sbc _ _ _ _ _ | .sbcx _ _ _ _ _ => s.phpl
  | .dac _ _ _ _ _ | .dacx _ _ _ _ _ | .dsc _ _ _ _ _ | .dscx _ _ _ _ _ => s.phpl
  | .adc _ _ _ _ _ | .adcx _ _ _ _ _ | .mul _ _ _ _ _ | .mulx _ _ _ _ _ => s.phpl
  | .sdc _ _ _ _ _ | .sdcx _ _ _ _ _ => s.phpl
  | .ior _ _ _ _ | .ixor _ _ _ _ | .iand _ _ _ _ | .iadd _ _ _ _ => s.phpl
  | .idac _ _ _ _ | .idsc _ _ _ _ | .iadc _ _ _ _ => s.phpl
  | .set _ _ _ => s.phpl
  | .imul _ _ _ _ _ => s.phpl
  | .cio _ _ _ _ _ _ _ => s.phpl
  | .tpa _ _ _ _ _ | .xpa _ _ _ _ _ | .tap _ _ _ _ | .tps _ _ _ _ | .tsp _ _ _ => s.phpl
  | .rts _ _ _ _ => s.phpl

/-- The byte an instruction's ,W1 or ,W2 sends: $00 for LPI, else what the instruction leaves in DUM
(R68). -/
def storedBy (i : Instr) (t : State) : Byte :=
  match i with
  | .lpi _ _ => 0
  | .jmp _ | .jsr _ => t.dum
  | .btl _ _ _ | .bth _ _ _ | .bfl _ _ _ | .bfh _ _ _ => t.dum
  | .bel _ _ _ | .beh _ _ _ | .bnl _ _ _ | .bnh _ _ _ => t.dum
  | .blr _ _ _ | .blrx _ _ _ | .bler _ _ _ | .blex _ _ _ | .ber _ _ _ | .bnr _ _ _ => t.dum
  | .bez _ _ | .bnz _ _ => t.dum
  | .or _ _ _ _ _ | .orx _ _ _ _ _ | .xor _ _ _ _ _ | .xorx _ _ _ _ _ => t.dum
  | .and _ _ _ _ _ | .andx _ _ _ _ _ | .sbc _ _ _ _ _ | .sbcx _ _ _ _ _ => t.dum
  | .dac _ _ _ _ _ | .dacx _ _ _ _ _ | .dsc _ _ _ _ _ | .dscx _ _ _ _ _ => t.dum
  | .adc _ _ _ _ _ | .adcx _ _ _ _ _ | .mul _ _ _ _ _ | .mulx _ _ _ _ _ => t.dum
  | .sdc _ _ _ _ _ | .sdcx _ _ _ _ _ => t.dum
  | .ior _ _ _ _ | .ixor _ _ _ _ | .iand _ _ _ _ | .iadd _ _ _ _ => t.dum
  | .idac _ _ _ _ | .idsc _ _ _ _ | .iadc _ _ _ _ => t.dum
  | .set _ _ _ => t.dum
  | .imul _ _ _ _ _ => t.dum
  | .cio _ _ _ _ _ _ _ => t.dum
  | .tpa _ _ _ _ _ | .xpa _ _ _ _ _ | .tap _ _ _ _ | .tps _ _ _ _ | .tsp _ _ _ => t.dum
  | .rts _ _ _ _ => t.dum

/-- Where an instruction that is no branch goes next unless PEDM is taken: RTS to the item popped
(the second one with ,WC and ,RC), any other to the following word (R28, R278, R279). -/
def nextOf (i : Instr) (s : State) : Addr :=
  match i with
  | .rts .noOp _ _ _ | .rts .noOpAlt _ _ _ => s.stack.headD 0
  | .rts .write _ _ _ | .rts .read _ _ _ => s.stack.tail.headD 0
  | .jmp _ | .jsr _ => s.pc + 1
  | .btl _ _ _ | .bth _ _ _ | .bfl _ _ _ | .bfh _ _ _ => s.pc + 1
  | .bel _ _ _ | .beh _ _ _ | .bnl _ _ _ | .bnh _ _ _ => s.pc + 1
  | .blr _ _ _ | .blrx _ _ _ | .bler _ _ _ | .blex _ _ _ | .ber _ _ _ | .bnr _ _ _ => s.pc + 1
  | .bez _ _ | .bnz _ _ => s.pc + 1
  | .or _ _ _ _ _ | .orx _ _ _ _ _ | .xor _ _ _ _ _ | .xorx _ _ _ _ _ => s.pc + 1
  | .and _ _ _ _ _ | .andx _ _ _ _ _ | .sbc _ _ _ _ _ | .sbcx _ _ _ _ _ => s.pc + 1
  | .dac _ _ _ _ _ | .dacx _ _ _ _ _ | .dsc _ _ _ _ _ | .dscx _ _ _ _ _ => s.pc + 1
  | .adc _ _ _ _ _ | .adcx _ _ _ _ _ | .mul _ _ _ _ _ | .mulx _ _ _ _ _ => s.pc + 1
  | .sdc _ _ _ _ _ | .sdcx _ _ _ _ _ => s.pc + 1
  | .ior _ _ _ _ | .ixor _ _ _ _ | .iand _ _ _ _ | .iadd _ _ _ _ => s.pc + 1
  | .idac _ _ _ _ | .idsc _ _ _ _ | .iadc _ _ _ _ => s.pc + 1
  | .set _ _ _ => s.pc + 1
  | .imul _ _ _ _ _ => s.pc + 1
  | .cio _ _ _ _ _ _ _ => s.pc + 1
  | .lpi _ _ => s.pc + 1
  | .tpa _ _ _ _ _ | .xpa _ _ _ _ _ | .tap _ _ _ _ | .tps _ _ _ _ | .tsp _ _ _ => s.pc + 1

/-- What the Data Memory operation `mm` at pointer `ma`, in the bank of the SL of `s`, leaves in `t`
when `v` is the byte a write sends (R64, R66, R67, R70, R72). -/
structure MemEffect (s t : State) (mm : MemOp) (ma : Addr) (v : Byte) : Prop where
  /-- A read loads both bytes of the word as it was, CH from `ma` (R64). -/
  loads : mm = .rd → if dmPresent s.sl ma = true
    then t.ch = s.dmRead s.sl ma ∧ t.cl = s.dmRead s.sl (otherByte ma) else t.pedm = true
  /-- Without an operation CH and CL stay. -/
  keeps : mm = .none → t.ch = s.ch ∧ t.cl = s.cl
  /-- What a write does to CH and CL is the parameter CHCL_AFTER_WRITE (R70). -/
  latches : memWrites mm = true → match Config.chclAfterWrite with
    | .unchanged => t.ch = s.ch ∧ t.cl = s.cl
    | .loadedOldWord => if dmPresent s.sl ma = true
      then t.ch = s.dmRead s.sl ma ∧ t.cl = s.dmRead s.sl (otherByte ma) else True
    | .any => True
  /-- A write stores its byte where memory is fitted, and is discarded elsewhere (R67, R72). -/
  stores : ∀ p, memTarget mm ma = some p → Memory.wf s.dm →
    t.dmRead s.sl p = if dmPresent s.sl p = true then v else s.dmRead s.sl p
  /-- Every byte but the stored one reads as before. -/
  frame : ∀ p, memTarget mm ma = some p → ∀ k, k ≠ physAddr s.sl p →
    Memory.get t.dm k = Memory.get s.dm k
  /-- Where nothing is stored every byte reads as before. -/
  noStore : memTarget mm ma = none → ∀ k, Memory.get t.dm k = Memory.get s.dm k

/-- SH bit 6 after an instruction that does not write SH: set by a flagged read, else as it was
(R303). -/
def pedmAfter (s : State) (mm : MemOp) (ma : Addr) : Bool := readFlagged mm s.sl ma || s.pedm

/-- Where pc is after an instruction with Data Memory operation `mm`: PEDM_VECTOR after a flagged
read unless DMPI is 1, else `next` (R303). -/
def pcAfter (s t : State) (mm : MemOp) (ma next : Addr) : Addr :=
  if readFlagged mm s.sl ma = true ∧ t.dmpi = false then Config.pedmVector else next

/-! ## What an ALU instruction does -/

/-- The carry the operation reads: after the carry control (R98, R182). -/
def carryIn (cc : CarryCtl) (s : State) : Bool :=
  match cc with
  | .asIs => s.carry
  | .asIsAlt => s.carry
  | .clear => false
  | .set => true

/-- The B value of a Register ALU instruction: SH shows the carry after the carry control (R181 (c),
R339). -/
def bValue (cc : CarryCtl) (b : BSrc) (s : State) : Byte :=
  if b = .sh then setBit s.sh 0 (carryIn cc s) else readB b s

/-- The destination `d` of an 8-bit form holds `v` in `t`; of SH only the bits a program writes
freely (R103, D22). -/
def State.destHolds (t : State) (d : Dest) (v : Byte) : Prop :=
  match d with
  | .r n => t.x n = v
  | .pl => t.pl = v
  | .ph => t.ph = v
  | .sl => t.sl = v
  | .sh => t.carry = v.getLsbD 0 ∧ t.ibs = v.getLsbD 1 ∧ t.dmpi = v.getLsbD 7
  | .k => t.k = v
  | .dum => True
  | .illegalA => False
  | .illegalB => False

/-- What an 8-bit ALU instruction with result `r`, destination `d` and pointer adjustment `move`
leaves in `t`, the carry apart (R180, R230): its results and its frame. -/
structure Alu8Effect (s t : State) (mm : MemOp) (d : Dest) (move : Addr) (r : Byte) : Prop where
  dum : t.dum = r
  dest : t.destHolds d r
  otherR : ∀ n, d ≠ .r n → t.x n = s.x n
  sl : d ≠ .sl → t.sl = s.sl
  k : d ≠ .k → t.k = s.k
  pointer : isPointer d = false → t.phpl = s.phpl + move
  ph : d = .pl → t.ph = s.ph
  pl : d = .ph → t.pl = s.pl
  status : d ≠ .sh → ∀ n, n ≠ 0 → n ≠ 6 → t.sh.getLsbD n = s.sh.getLsbD n
  statusOfSh : d = .sh → ∀ n, 2 ≤ n → n ≤ 5 → t.sh.getLsbD n = s.sh.getLsbD n
  pedm : d ≠ .sh → t.pedm = pedmAfter s mm s.phpl
  pedmOfSh : d = .sh → t.pedm = (readFlagged mm s.sl s.phpl || (s.pedm && r.getLsbD 6))
  memory : MemEffect s t mm s.phpl r
  pc : t.pc = pcAfter s t mm s.phpl (s.pc + 1)
  ab : t.ab = s.ab
  ar : t.ar = s.ar
  stack : t.stack = s.stack
  cm : t.cm = s.cm
  io : t.io = s.io
  env : t.env = s.env

/-- What a 16-bit ALU instruction with result bytes `rl` and `rh` leaves in `t`, the carry apart
(R183): its results and its frame. -/
structure Alu16Effect (s t : State) (mm : MemOp) (d : Fin 7) (rl rh : Byte) : Prop where
  low : t.x (pairLow d) = rl
  high : t.x (pairHigh d) = rh
  otherR : ∀ n, n ≠ pairLow d → n ≠ pairHigh d → t.x n = s.x n
  ph : t.ph = s.ph
  pl : t.pl = s.pl
  sl : t.sl = s.sl
  k : t.k = s.k
  status : ∀ n, n ≠ 0 → n ≠ 6 → t.sh.getLsbD n = s.sh.getLsbD n
  pedm : t.pedm = pedmAfter s mm s.phpl
  memory : MemEffect s t mm s.phpl 0
  pc : t.pc = pcAfter s t mm s.phpl (s.pc + 1)
  ab : t.ab = s.ab
  ar : t.ar = s.ar
  stack : t.stack = s.stack
  cm : t.cm = s.cm
  io : t.io = s.io
  env : t.env = s.env

/-- The forms of an 8-bit ALU instruction that the spec executes: a legal destination, no pointer
collision, no carry collision (R180, R181, R307). -/
def runs8 (producesCarry : Bool) (d : Dest) (a : ASrc) : Prop :=
  d.isLegal = true ∧ ¬(isPointer d = true ∧ movesPointer a = true) ∧
    ¬(producesCarry = true ∧ d = .sh)

/-- The forms of an Immediate ALU instruction that the spec executes (R230, R307). -/
def runsImm (producesCarry : Bool) (d : Dest) : Prop :=
  d.isLegal = true ∧ ¬(producesCarry = true ∧ d = .sh)

/-- A register pair as a number, the next-numbered register the high byte (R161, R183). -/
def pairNat (s : State) (p : Fin 7) : Nat :=
  (s.x (pairHigh p)).toNat * 256 + (s.x (pairLow p)).toNat

/-- The nibble of `v` that a selection bit picks: 1 the upper, 0 the lower (R99). -/
def pick (upper : Bool) (v : Byte) : Nat := if upper = true then v.toNat / 16 else v.toNat % 16

/-- A word of format RA from the `match` of its row and its fields (R97, R110); `sel` is bits 15:14. -/
def wordReg (opcode sel : Nat) (mm : MemOp) (d : Dest) (a : ASrc) (b : BSrc) : Nat :=
  opcode + sel * 0x4000 + mm.code * 0x1000 + d.code * 0x100 + a.code * 0x10 + b.code

/-! ## The operand tables -/

/-- What code `c` of the A bus reads (Table 1, R101). -/
def aValue (c : Nat) (s : State) : Byte :=
  match c with
  | 8 | 10 | 12 => s.cl
  | 9 | 11 | 13 => s.ch
  | 14 | 15 => 0
  | n => s.x (Fin.ofNat 8 n)

/-- What code `c` of the A bus adds to PHPL after the operation (Table 1, R101). -/
def aAdj (c : Nat) : Int :=
  ([0, 0, 0, 0, 0, 0, 0, 0, -1, -1, 0, 0, 1, 1, 1, -1] : List Int).getD c 0

/-- `s` with `v` in the register that code `c` of the C bus names (Table 3, R103); 1111 names none.
For the codes that write a register as it is sent: not for SH, 1101, nor for the illegal codes. -/
def cWritten (c : Nat) (v : Byte) (s : State) : State :=
  match c with
  | 8 => { s with pl := v }
  | 9 => { s with ph := v }
  | 12 => { s with sl := v }
  | 14 => { s with k := v }
  | 15 => s
  | n => { s with r := s.r.set (Fin.ofNat 8 n) v }

/-! ## Decimal digits -/

/-- One digit position of a decimal addition (R202). -/
def digitSum (x y : Nat) (cin : Bool) (d : Nat) (cout : Bool) : Prop :=
  if 10 ≤ x + y + cin.toNat then d = (x + y + cin.toNat - 10) % 16 ∧ cout = true
  else d = x + y + cin.toNat ∧ cout = false

/-- One digit position of a decimal subtraction, on integers (R203). -/
def digitDiff (x y : Nat) (bin : Bool) (d : Nat) (bout : Bool) : Prop :=
  if (x : Int) - y - bin.toNat < 0 then (d : Int) = ((x : Int) - y - bin.toNat + 10) % 16 ∧ bout = true
  else (d : Int) = (x : Int) - y - bin.toNat ∧ bout = false

/-- `r` and `cout` are the sum of two bytes of two digits, low digit first (R192). -/
def decimalSum (a b : Byte) (cin : Bool) (r : Byte) (cout : Bool) : Prop :=
  ∃ c, digitSum (a.toNat % 16) (b.toNat % 16) cin (r.toNat % 16) c ∧
    digitSum (a.toNat / 16) (b.toNat / 16) c (r.toNat / 16) cout

/-- `r` and `bout` are the difference of two bytes of two digits, low digit first (R194). -/
def decimalDiff (a b : Byte) (bin : Bool) (r : Byte) (bout : Bool) : Prop :=
  ∃ c, digitDiff (a.toNat % 16) (b.toNat % 16) bin (r.toNat % 16) c ∧
    digitDiff (a.toNat / 16) (b.toNat / 16) c (r.toNat / 16) bout

/-- Both digits are decimal. -/
def isBcd (v : Byte) : Prop := v.toNat / 16 ≤ 9 ∧ v.toNat % 16 ≤ 9

/-- The number two decimal digits stand for. -/
def bcd (v : Byte) : Nat := v.toNat / 16 * 10 + v.toNat % 16

/-! ## What a stack or auxiliary register instruction does -/

/-- `PAdj` (R106): what code 0 to 7 of the P register control adds. -/
def pAdj (c : Nat) : Int := ([0, 1, 2, 3, 0, -1, -2, -3] : List Int).getD c 0

/-- What an instruction of the stack and auxiliary group leaves in `t`, the pointer, K, the auxiliary
registers, the stack and Control Memory apart (R270, R271). -/
structure AuxEffect (s t : State) (mm : MemOp) (b : BSrc) (next : Addr) : Prop where
  dum : t.dum = readB b s
  r : t.r = s.r
  sl : t.sl = s.sl
  ab : t.ab = s.ab
  status : ∀ n, n ≠ 6 → t.sh.getLsbD n = s.sh.getLsbD n
  pedm : t.pedm = pedmAfter s mm s.phpl
  memory : MemEffect s t mm s.phpl (readB b s)
  pc : t.pc = pcAfter s t mm s.phpl next
  io : t.io = s.io
  env : t.env = s.env

/-! ## Branch targets -/

/-- A word of the 1024-word page of the branch itself (R140, D2). -/
def inPage (s : State) (x : BitVec 10) : Addr :=
  BitVec.ofNat 16 (s.pc.toNat / 1024 * 1024 + x.toNat)

/-- `t` is `s` with pc at the in-page target if `taken`, else at the following word: nothing else
differs (R140, R150). -/
def branchesTo (s t : State) (x : BitVec 10) (taken : Prop) : Prop :=
  t = s.setPc t.pc ∧ (taken → t.pc = inPage s x) ∧ (¬taken → t.pc = s.pc + 1)

/-- As `branchesTo`, with the `+` or `-` of the A source applied to the pointer, taken or not (R160). -/
def comparesTo (s t : State) (x : BitVec 10) (a : ASrc) (taken : Prop) : Prop :=
  t = ((s.setPh t.ph).setPl t.pl).setPc t.pc ∧ t.phpl = s.phpl + moveOf a ∧
    (taken → t.pc = inPage s x) ∧ (¬taken → t.pc = s.pc + 1)

/-! ## Who may change what -/

/-- What an instruction's A source adds to the pointer after the operation, if it has one (R101). -/
def pointerMove (i : Instr) : Addr :=
  match i with
  | .or _ _ _ a _ | .xor _ _ _ a _ | .and _ _ _ a _ | .sbc _ _ _ a _ | .dac _ _ _ a _ => moveOf a
  | .dsc _ _ _ a _ | .adc _ _ _ a _ | .mul _ _ _ a _ | .sdc _ _ _ a _ => moveOf a
  | .blr _ a _ | .bler _ a _ | .ber _ a _ | .bnr _ a _ => moveOf a
  | .bez _ a | .bnz _ a => moveOf a
  | .orx _ _ _ _ _ | .xorx _ _ _ _ _ | .andx _ _ _ _ _ | .sbcx _ _ _ _ _ => 0
  | .dacx _ _ _ _ _ | .dscx _ _ _ _ _ | .adcx _ _ _ _ _ | .mulx _ _ _ _ _ => 0
  | .sdcx _ _ _ _ _ => 0
  | .ior _ _ _ _ | .ixor _ _ _ _ | .iand _ _ _ _ | .iadd _ _ _ _ => 0
  | .idac _ _ _ _ | .idsc _ _ _ _ | .iadc _ _ _ _ => 0
  | .set _ _ _ => 0
  | .imul _ _ _ _ _ => 0
  | .jmp _ | .jsr _ => 0
  | .btl _ _ _ | .bth _ _ _ | .bfl _ _ _ | .bfh _ _ _ => 0
  | .bel _ _ _ | .beh _ _ _ | .bnl _ _ _ | .bnh _ _ _ => 0
  | .blrx _ _ _ | .blex _ _ _ => 0
  | .cio _ _ _ _ _ _ _ => 0
  | .lpi _ _ => 0
  | .tpa _ _ _ _ _ | .xpa _ _ _ _ _ | .tap _ _ _ _ | .tps _ _ _ _ | .tsp _ _ _ => 0
  | .rts _ _ _ _ => 0

/-- The destination code of a 16-bit ALU form, if the instruction is one. -/
def destXOf (i : Instr) : Option Dest :=
  match i with
  | .orx _ _ d _ _ | .xorx _ _ d _ _ | .andx _ _ d _ _ | .sbcx _ _ d _ _ => some d
  | .dacx _ _ d _ _ | .dscx _ _ d _ _ | .adcx _ _ d _ _ | .mulx _ _ d _ _ => some d
  | .sdcx _ _ d _ _ => some d
  | .or _ _ _ _ _ | .xor _ _ _ _ _ | .and _ _ _ _ _ | .sbc _ _ _ _ _ | .dac _ _ _ _ _ => none
  | .dsc _ _ _ _ _ | .adc _ _ _ _ _ | .mul _ _ _ _ _ | .sdc _ _ _ _ _ => none
  | .ior _ _ _ _ | .ixor _ _ _ _ | .iand _ _ _ _ | .iadd _ _ _ _ => none
  | .idac _ _ _ _ | .idsc _ _ _ _ | .iadc _ _ _ _ => none
  | .set _ _ _ => none
  | .imul _ _ _ _ _ => none
  | .jmp _ | .jsr _ => none
  | .btl _ _ _ | .bth _ _ _ | .bfl _ _ _ | .bfh _ _ _ => none
  | .bel _ _ _ | .beh _ _ _ | .bnl _ _ _ | .bnh _ _ _ => none
  | .blr _ _ _ | .blrx _ _ _ | .bler _ _ _ | .blex _ _ _ | .ber _ _ _ | .bnr _ _ _ => none
  | .bez _ _ | .bnz _ _ => none
  | .cio _ _ _ _ _ _ _ => none
  | .lpi _ _ => none
  | .tpa _ _ _ _ _ | .xpa _ _ _ _ _ | .tap _ _ _ _ | .tps _ _ _ _ | .tsp _ _ _ => none
  | .rts _ _ _ _ => none

/-- The destination code of an 8-bit form, if the instruction is one. -/
def destOf (i : Instr) : Option Dest :=
  match i with
  | .or _ _ d _ _ | .xor _ _ d _ _ | .and _ _ d _ _ | .sbc _ _ d _ _ | .dac _ _ d _ _ => some d
  | .dsc _ _ d _ _ | .adc _ _ d _ _ | .mul _ _ d _ _ | .sdc _ _ d _ _ => some d
  | .ior _ d _ _ | .ixor _ d _ _ | .iand _ d _ _ | .iadd _ d _ _ => some d
  | .idac _ d _ _ | .idsc _ d _ _ | .iadc _ d _ _ => some d
  | .set _ d _ => some d
  | .imul _ _ d _ _ => some d
  | .orx _ _ _ _ _ | .xorx _ _ _ _ _ | .andx _ _ _ _ _ | .sbcx _ _ _ _ _ => none
  | .dacx _ _ _ _ _ | .dscx _ _ _ _ _ | .adcx _ _ _ _ _ | .mulx _ _ _ _ _ => none
  | .sdcx _ _ _ _ _ => none
  | .jmp _ | .jsr _ => none
  | .btl _ _ _ | .bth _ _ _ | .bfl _ _ _ | .bfh _ _ _ => none
  | .bel _ _ _ | .beh _ _ _ | .bnl _ _ _ | .bnh _ _ _ => none
  | .blr _ _ _ | .blrx _ _ _ | .bler _ _ _ | .blex _ _ _ | .ber _ _ _ | .bnr _ _ _ => none
  | .bez _ _ | .bnz _ _ => none
  | .cio _ _ _ _ _ _ _ => none
  | .lpi _ _ => none
  | .tpa _ _ _ _ _ | .xpa _ _ _ _ _ | .tap _ _ _ _ | .tps _ _ _ _ | .tsp _ _ _ => none
  | .rts _ _ _ _ => none

/-- The carry control written in an instruction that has one (R98). -/
def carryCtlOf (i : Instr) : CarryCtl :=
  match i with
  | .or cc _ _ _ _ | .xor cc _ _ _ _ | .and cc _ _ _ _ | .sbc cc _ _ _ _ | .dac cc _ _ _ _ => cc
  | .dsc cc _ _ _ _ | .adc cc _ _ _ _ | .orx cc _ _ _ _ | .xorx cc _ _ _ _ => cc
  | .andx cc _ _ _ _ | .sbcx cc _ _ _ _ | .dacx cc _ _ _ _ | .dscx cc _ _ _ _ => cc
  | .adcx cc _ _ _ _ => cc
  | .mul _ _ _ _ _ | .mulx _ _ _ _ _ | .sdc _ _ _ _ _ | .sdcx _ _ _ _ _ => .asIs
  | .ior _ _ _ _ | .ixor _ _ _ _ | .iand _ _ _ _ | .iadd _ _ _ _ => .asIs
  | .idac _ _ _ _ | .idsc _ _ _ _ | .iadc _ _ _ _ => .asIs
  | .set _ _ _ => .asIs
  | .imul _ _ _ _ _ => .asIs
  | .jmp _ | .jsr _ => .asIs
  | .btl _ _ _ | .bth _ _ _ | .bfl _ _ _ | .bfh _ _ _ => .asIs
  | .bel _ _ _ | .beh _ _ _ | .bnl _ _ _ | .bnh _ _ _ => .asIs
  | .blr _ _ _ | .blrx _ _ _ | .bler _ _ _ | .blex _ _ _ | .ber _ _ _ | .bnr _ _ _ => .asIs
  | .bez _ _ | .bnz _ _ => .asIs
  | .cio _ _ _ _ _ _ _ => .asIs
  | .lpi _ _ => .asIs
  | .tpa _ _ _ _ _ | .xpa _ _ _ _ _ | .tap _ _ _ _ | .tps _ _ _ _ | .tsp _ _ _ => .asIs
  | .rts _ _ _ _ => .asIs

/-- The instruction produces a carry or a borrow (R31, R204). -/
def producesCarry (i : Instr) : Bool :=
  match i with
  | .sbc _ _ _ _ _ | .sbcx _ _ _ _ _ | .dac _ _ _ _ _ | .dacx _ _ _ _ _ => true
  | .dsc _ _ _ _ _ | .dscx _ _ _ _ _ | .adc _ _ _ _ _ | .adcx _ _ _ _ _ => true
  | .idac _ _ _ _ | .idsc _ _ _ _ | .iadc _ _ _ _ => true
  | .or _ _ _ _ _ | .orx _ _ _ _ _ | .xor _ _ _ _ _ | .xorx _ _ _ _ _ => false
  | .and _ _ _ _ _ | .andx _ _ _ _ _ | .mul _ _ _ _ _ | .mulx _ _ _ _ _ => false
  | .sdc _ _ _ _ _ | .sdcx _ _ _ _ _ => false
  | .ior _ _ _ _ | .ixor _ _ _ _ | .iand _ _ _ _ | .iadd _ _ _ _ => false
  | .set _ _ _ => false
  | .imul _ _ _ _ _ => false
  | .jmp _ | .jsr _ => false
  | .btl _ _ _ | .bth _ _ _ | .bfl _ _ _ | .bfh _ _ _ => false
  | .bel _ _ _ | .beh _ _ _ | .bnl _ _ _ | .bnh _ _ _ => false
  | .blr _ _ _ | .blrx _ _ _ | .bler _ _ _ | .blex _ _ _ | .ber _ _ _ | .bnr _ _ _ => false
  | .bez _ _ | .bnz _ _ => false
  | .cio _ _ _ _ _ _ _ => false
  | .lpi _ _ => false
  | .tpa _ _ _ _ _ | .xpa _ _ _ _ _ | .tap _ _ _ _ | .tps _ _ _ _ | .tsp _ _ _ => false
  | .rts _ _ _ _ => false

/-- An answer with its state changed. -/
def mapNext (f : State → State) (r : Result) : Result :=
  match r with
  | .next s => .next (f s)
  | .fault e => .fault e
  | .refused e => .refused e

end Sys2Proof.Machine
end

