-- ==== Sys2Proof/Certificates/Slice0/Obligations.lean ====
section
/-! DEFINITION. The statements for the provers. Where a clause rests on one of the spec's own decisions
(D<n>) or on a choice of this model (log <n>), the docstring names it. -/

open Sys2Proof Sys2Proof.Machine

/-! ## Encoding -/

/-- Control words of the source, each with the instruction printed beside it (R111, R131, R132, R141,
R151, R162, R196, R201, R234, R250, R253, R108, R273, R276, R281): at least one of each family. -/
def Obligations.SampleWordsDecode : Prop :=
  decode 0xDE6A08#24 = .ok (.jmp 0x0A6A#16) ∧
  decode 0xD50108#24 = .ok (.jsr 0x0901#16) ∧
  decode 0x600362#24 = .ok (.btl 0x003#10 0x6#4 (.r 2)) ∧
  decode 0xF00352#24 = .ok (.bel 0x003#10 0x5#4 (.r 2)) ∧
  decode 0x420D36#24 = .ok (.blr 0x20D#10 (.r 3) (.r 6)) ∧
  decode 0xD20D3F#24 = .ok (.bez 0x20D#10 (.r 3)) ∧
  decode 0x188201#24 = .ok (.adc .clear .none (.r 2) (.r 0) (.r 1)) ∧
  decode 0x064402#24 = .ok (.sdcx .ahbl .none (.r 4) (.r 0) (.r 2)) ∧
  decode 0xAB8DDD#24 = .ok (.iand .none .sh 0xED#8 .sh) ∧
  decode 0x214E2F#24 = .ok (.set .none .k 0x52#8) ∧
  decode 0x178C00#24 = .ok (.cio .none true true false false false false) ∧
  decode 0x17800C#24 = .ok (.cio .none false false false false false true) ∧
  decode 0x192103#24 = .ok (.lpi .w1 0x0103#16) ∧
  decode 0x81800F#24 = .ok (.tpa .same .none false 0 .zero) ∧
  decode 0x05800F#24 = .ok (.tps .same .none false .zero) ∧
  decode 0x878600#24 = .ok (.rts .read .none false (.r 0))

/-- Decoding the encoded word of a well-formed instruction gives the instruction back: no bit of an
encoding is dropped. -/
def Obligations.DecodeEncode : Prop :=
  ∀ i : Instr, i.wellFormed = true → decode (encode i) = .ok i

/-- Each word has one meaning: a word that decodes is well formed as an instruction, and if its parity
is odd it is that instruction's own encoding. -/
def Obligations.EncodeDecode : Prop :=
  ∀ (w : CWord) (i : Instr), decode w = .ok i →
    i.wellFormed = true ∧ (oddParity w = true → encode i = w)

/-- R91: an assembled word has an odd number of 1 bits, bit 23 included, and bits 22 to 0 are the
instruction's; bit 23 takes no part in decoding; the parity is checked first, and only a word of odd
parity is decoded and run. With the rule's three examples. That a word of even parity goes on at a
vector and changes nothing but pc is the spec's decision (D13, D25; log 28), and that the vector is
taken rather than a terminating fault the model's choice (log 7). -/
def Obligations.ParityBit : Prop :=
  (∀ i : Instr, ones 24 (encode i).toNat % 2 = 1 ∧
    (encode i).toNat % 2 ^ 23 = encodeBody i % 2 ^ 23 ∧
    ((encode i).getLsbD 23 = true ↔ ones 23 (encodeBody i) % 2 = 0)) ∧
  (∀ w : CWord, decode (w ^^^ 0x800000#24) = decode w) ∧
  (∀ (w : CWord) (s : State),
    (oddParity w = true ↔ ((List.range 24).filter (fun n => w.getLsbD n)).length % 2 = 1) ∧
    (oddParity w = false → ∃ v, runWord w s = .next (s.setPc v)) ∧
    (oddParity w = true → ∀ i, decode w = .ok i → runWord w s = exec i s)) ∧
  encode (.or .clear .none (.r 2) (.r 0) (.r 1)) = 0x008201#24 ∧
  encode (.adc .clear .none (.r 2) (.r 0) (.r 1)) = 0x188201#24 ∧
  encode (.adc .set .none (.r 2) (.r 0) (.r 1)) = 0x98C201#24

/-- R93, format BR: `p101 f1xx xxxx xxxx yyyy yy00`, bit 19 = 1 JMP and 0 JSR, target y:x, with the
rule's example. -/
def Obligations.JumpFormat : Prop :=
  (∀ w : CWord, w.extractLsb' 0 2 = 0#2 →
    (w.extractLsb' 18 5 = 0b10111#5 →
      decode w = .ok (.jmp (w.extractLsb' 2 6 ++ w.extractLsb' 8 10))) ∧
    (w.extractLsb' 18 5 = 0b10101#5 →
      decode w = .ok (.jsr (w.extractLsb' 2 6 ++ w.extractLsb' 8 10)))) ∧
  decode 0xDE6A08#24 = .ok (.jmp 0x0A6A#16)

/-- R94 and R95, formats MB and VB: bits 22:20 = 110 and 111, function in bits 19:18, the in-page
target in bits 17:8, the mask or constant in bits 7:4, the B source in bits 3:0. -/
def Obligations.TestBranchFormats : Prop :=
  ∀ w : CWord,
    let x := w.extractLsb' 8 10
    let c := w.extractLsb' 4 4
    let b := BSrc.ofCode (w.extractLsb' 0 4).toNat
    (w.extractLsb' 18 5 = 0b11000#5 → decode w = .ok (.btl x c b)) ∧
    (w.extractLsb' 18 5 = 0b11001#5 → decode w = .ok (.bth x c b)) ∧
    (w.extractLsb' 18 5 = 0b11010#5 → decode w = .ok (.bfl x c b)) ∧
    (w.extractLsb' 18 5 = 0b11011#5 → decode w = .ok (.bfh x c b)) ∧
    (w.extractLsb' 18 5 = 0b11100#5 → decode w = .ok (.bel x c b)) ∧
    (w.extractLsb' 18 5 = 0b11101#5 → decode w = .ok (.beh x c b)) ∧
    (w.extractLsb' 18 5 = 0b11110#5 → decode w = .ok (.bnl x c b)) ∧
    (w.extractLsb' 18 5 = 0b11111#5 → decode w = .ok (.bnh x c b))

/-- R96, format RC: bits 22:21 = 10, function in bits 20:18; BER and BNR with B = 1111 are BEZ and BNZ;
functions 101 and 111 are no comparison but JSR and JMP. -/
def Obligations.CompareBranchFormat : Prop :=
  ∀ w : CWord,
    let x := w.extractLsb' 8 10
    let a := ASrc.ofCode (w.extractLsb' 4 4).toNat
    let b := BSrc.ofCode (w.extractLsb' 0 4).toNat
    (w.extractLsb' 18 5 = 0b10000#5 → decode w = .ok (.blr x a b)) ∧
    (w.extractLsb' 18 5 = 0b10001#5 → decode w = .ok (.blrx x a b)) ∧
    (w.extractLsb' 18 5 = 0b10010#5 → decode w = .ok (.bler x a b)) ∧
    (w.extractLsb' 18 5 = 0b10011#5 → decode w = .ok (.blex x a b)) ∧
    (w.extractLsb' 18 5 = 0b10100#5 →
      decode w = .ok (if w.extractLsb' 0 4 = 0xF#4 then .bez x a else .ber x a b)) ∧
    (w.extractLsb' 18 5 = 0b10110#5 →
      decode w = .ok (if w.extractLsb' 0 4 = 0xF#4 then .bnz x a else .bnr x a b)) ∧
    (w.extractLsb' 18 5 = 0b10101#5 → ∀ i, decode w = .ok i → ∃ t, i = .jsr t) ∧
    (w.extractLsb' 18 5 = 0b10111#5 → ∀ i, decode w = .ok i → ∃ t, i = .jmp t)

/-- R97 to R99, formats RA and SD: bits 22:21 = 00 and bit 16 = 0. For the words with a legal
destination code, and for all words of the 16-bit forms (whose operands R183 checks). -/
def Obligations.RegisterAluFormat : Prop :=
  ∀ w : CWord, w.extractLsb' 21 2 = 0#2 → w.getLsbD 16 = false →
    let cc := CarryCtl.ofCode (w.extractLsb' 14 2).toNat
    let nn := NibSel.ofCode (w.extractLsb' 14 2).toNat
    let ss := NibSel.ofCode (w.extractLsb' 18 2).toNat
    let mm := MemOp.ofCode (w.extractLsb' 12 2).toNat
    let d := Dest.ofCode (w.extractLsb' 8 4).toNat
    let a := ASrc.ofCode (w.extractLsb' 4 4).toNat
    let b := BSrc.ofCode (w.extractLsb' 0 4).toNat
    (w.getLsbD 20 = false → w.extractLsb' 14 2 = 0b01#2 →
      (w.getLsbD 17 = false → d.isLegal = true → decode w = .ok (.sdc ss mm d a b)) ∧
      (w.getLsbD 17 = true → decode w = .ok (.sdcx ss mm d a b))) ∧
    (w.extractLsb' 14 2 ≠ 0b01#2 →
      (w.extractLsb' 17 4 = 0b0000#4 → d.isLegal = true → decode w = .ok (.or cc mm d a b)) ∧
      (w.extractLsb' 17 4 = 0b0001#4 → decode w = .ok (.orx cc mm d a b)) ∧
      (w.extractLsb' 17 4 = 0b0010#4 → d.isLegal = true → decode w = .ok (.xor cc mm d a b)) ∧
      (w.extractLsb' 17 4 = 0b0011#4 → decode w = .ok (.xorx cc mm d a b)) ∧
      (w.extractLsb' 17 4 = 0b0100#4 → d.isLegal = true → decode w = .ok (.and cc mm d a b)) ∧
      (w.extractLsb' 17 4 = 0b0101#4 → decode w = .ok (.andx cc mm d a b)) ∧
      (w.extractLsb' 17 4 = 0b0110#4 → d.isLegal = true → decode w = .ok (.sbc cc mm d a b)) ∧
      (w.extractLsb' 17 4 = 0b0111#4 → decode w = .ok (.sbcx cc mm d a b))) ∧
    (w.extractLsb' 17 4 = 0b1000#4 → d.isLegal = true → decode w = .ok (.dac cc mm d a b)) ∧
    (w.extractLsb' 17 4 = 0b1001#4 → decode w = .ok (.dacx cc mm d a b)) ∧
    (w.extractLsb' 17 4 = 0b1010#4 → d.isLegal = true → decode w = .ok (.dsc cc mm d a b)) ∧
    (w.extractLsb' 17 4 = 0b1011#4 → decode w = .ok (.dscx cc mm d a b)) ∧
    (w.extractLsb' 17 4 = 0b1100#4 → d.isLegal = true → decode w = .ok (.adc cc mm d a b)) ∧
    (w.extractLsb' 17 4 = 0b1101#4 → decode w = .ok (.adcx cc mm d a b)) ∧
    (w.extractLsb' 17 4 = 0b1110#4 → d.isLegal = true → decode w = .ok (.mul nn mm d a b)) ∧
    (w.extractLsb' 17 4 = 0b1111#4 → decode w = .ok (.mulx nn mm d a b))

/-- R109, format IM: bits 22:21 = 01, the constant in bits 17:14 and 7:4, for the words with a legal
destination code; IOR with B = 1111 is SET; IMUL has bits 17, 16 and 14 = 0, bit 15 for the B nibble
and a 4-bit constant. -/
def Obligations.ImmediateFormat : Prop :=
  ∀ w : CWord,
    let mm := MemOp.ofCode (w.extractLsb' 12 2).toNat
    let d := Dest.ofCode (w.extractLsb' 8 4).toNat
    let imm : Byte := w.extractLsb' 14 4 ++ w.extractLsb' 4 4
    let b := BSrc.ofCode (w.extractLsb' 0 4).toNat
    d.isLegal = true →
    (w.extractLsb' 18 5 = 0b01000#5 →
      decode w = .ok (if w.extractLsb' 0 4 = 0xF#4 then .set mm d imm else .ior mm d imm b)) ∧
    (w.extractLsb' 18 5 = 0b01001#5 → decode w = .ok (.ixor mm d imm b)) ∧
    (w.extractLsb' 18 5 = 0b01010#5 → decode w = .ok (.iand mm d imm b)) ∧
    (w.extractLsb' 18 5 = 0b01011#5 → decode w = .ok (.iadd mm d imm b)) ∧
    (w.extractLsb' 18 5 = 0b01100#5 → decode w = .ok (.idac mm d imm b)) ∧
    (w.extractLsb' 18 5 = 0b01101#5 → decode w = .ok (.idsc mm d imm b)) ∧
    (w.extractLsb' 18 5 = 0b01110#5 → decode w = .ok (.iadc mm d imm b)) ∧
    (w.extractLsb' 18 5 = 0b01111#5 → w.extractLsb' 16 2 = 0#2 → w.getLsbD 14 = false →
      decode w = .ok (.imul (w.getLsbD 15) mm d (w.extractLsb' 4 4) b))

/-- R108 and R262, format LP: bits 22:19 = 0011 and bit 16 = 1; the address is bits 18:17, then 15:14,
then 11:0; with the two words of R108 and the encoding 9D9BCD of R262, which the spec marks as derived
from R91 and R108. -/
def Obligations.LpiFormat : Prop :=
  (∀ w : CWord, w.extractLsb' 19 4 = 0b0011#4 → w.getLsbD 16 = true →
    decode w = .ok (.lpi (MemOp.ofCode (w.extractLsb' 12 2).toNat)
      (w.extractLsb' 17 2 ++ (w.extractLsb' 14 2 ++ w.extractLsb' 0 12)))) ∧
  decode 0x192103#24 = .ok (.lpi .w1 0x0103#16) ∧
  decode 0x9B0F82#24 = .ok (.lpi .none 0x4F82#16) ∧
  encode (.lpi .rd 0xABCD#16) = 0x9D9BCD#24

/-- R100, R105 to R107, formats MI and IO: the stack and auxiliary group (bits 22:20 = 000, bits 16 and
15 = 1, function in bits 19:17) and CIO (bits 22:14 = 001011110, bits 6:4 and 1:0 zero). -/
def Obligations.AuxAndIoFormats : Prop :=
  ∀ w : CWord,
    let mm := MemOp.ofCode (w.extractLsb' 12 2).toNat
    let x := w.getLsbD 11
    let p := PCtl.ofCode ((w.extractLsb' 14 1).toNat * 4 + (w.extractLsb' 9 2).toNat)
    let r := Fin.ofNat 32 (w.extractLsb' 4 5).toNat
    let b := BSrc.ofCode (w.extractLsb' 0 4).toNat
    (w.extractLsb' 20 3 = 0#3 → w.extractLsb' 15 2 = 0b11#2 →
      (w.extractLsb' 17 3 = 0b000#3 → decode w = .ok (.tpa p mm x r b)) ∧
      (w.extractLsb' 17 3 = 0b001#3 → decode w = .ok (.xpa p mm x r b)) ∧
      (w.extractLsb' 17 3 = 0b010#3 → w.extractLsb' 4 5 = 0#5 → decode w = .ok (.tps p mm x b)) ∧
      (w.extractLsb' 17 3 = 0b011#3 → w.extractLsb' 4 5 = 0#5 → w.getLsbD 14 = false →
        decode w = .ok (.rts (CmCtl.ofCode (w.extractLsb' 9 2).toNat) mm x b)) ∧
      (w.extractLsb' 17 3 = 0b101#3 → w.extractLsb' 9 2 = 0#2 → w.getLsbD 14 = false →
        decode w = .ok (.tap mm x r b)) ∧
      (w.extractLsb' 17 3 = 0b110#3 → w.extractLsb' 4 7 = 0#7 → w.getLsbD 14 = false →
        decode w = .ok (.tsp mm x b))) ∧
    (w.extractLsb' 14 9 = 0b001011110#9 → w.extractLsb' 4 3 = 0#3 → w.extractLsb' 0 2 = 0#2 →
      (w.extractLsb' 2 2 = 0b00#2 ∨ w.extractLsb' 2 2 = 0b11#2) →
      decode w = .ok (.cio mm (w.getLsbD 11) (w.getLsbD 10) (w.getLsbD 9) (w.getLsbD 8)
        (w.getLsbD 7) (w.getLsbD 2)))

/-- R112 and R113: every word of the list of encodings without an instruction is refused by the
decoder, by the name of its row; the destination row for the 8-bit forms (R307: a 16-bit form reports
its operand instead). -/
def Obligations.UnassignedEncodings : Prop :=
  ∀ w : CWord,
    (w.extractLsb' 20 3 = 0#3 → w.getLsbD 16 = true →
      (w.getLsbD 15 = false → decode w = .error .auxBit15) ∧
      (w.getLsbD 15 = true → (w.extractLsb' 17 3 = 4#3 ∨ w.extractLsb' 17 3 = 7#3) →
        decode w = .error .auxFunction) ∧
      (w.getLsbD 15 = true →
        (w.extractLsb' 17 3 = 2#3 ∧ w.extractLsb' 4 5 ≠ 0#5) ∨
        (w.extractLsb' 17 3 = 3#3 ∧ (w.getLsbD 14 = true ∨ w.extractLsb' 4 5 ≠ 0#5)) ∨
        (w.extractLsb' 17 3 = 5#3 ∧ (w.getLsbD 14 = true ∨ w.extractLsb' 9 2 ≠ 0#2)) ∨
        (w.extractLsb' 17 3 = 6#3 ∧ (w.getLsbD 14 = true ∨ w.extractLsb' 4 7 ≠ 0#7)) →
        decode w = .error .auxReserved)) ∧
    (w.extractLsb' 20 3 = 1#3 → w.getLsbD 16 = true → w.getLsbD 19 = false →
      w.extractLsb' 17 2 ≠ 3#2 → decode w = .error .ioFunction) ∧
    (w.extractLsb' 16 7 = 0b0010111#7 →
      (w.extractLsb' 14 2 ≠ 2#2 → decode w = .error .cioFixed) ∧
      (w.extractLsb' 14 2 = 2#2 →
        (w.extractLsb' 4 3 ≠ 0#3 ∨ w.extractLsb' 0 2 ≠ 0#2 ∨
          w.extractLsb' 2 2 = 1#2 ∨ w.extractLsb' 2 2 = 2#2) → decode w = .error .cioReserved)) ∧
    ((w.extractLsb' 18 5 = 0b10111#5 ∨ w.extractLsb' 18 5 = 0b10101#5) → w.extractLsb' 0 2 ≠ 0#2 →
      decode w = .error .jumpReserved) ∧
    ((w.extractLsb' 8 4 = 10#4 ∨ w.extractLsb' 8 4 = 11#4) →
      ((w.extractLsb' 21 2 = 0#2 ∧ w.extractLsb' 16 2 = 0#2) ∨ w.extractLsb' 21 2 = 1#2) →
      decode w = .error .destination) ∧
    (w.extractLsb' 18 5 = 0b01111#5 → w.extractLsb' 8 4 ≠ 10#4 → w.extractLsb' 8 4 ≠ 11#4 →
      (w.extractLsb' 16 2 ≠ 0#2 ∨ w.getLsbD 14 = true) → decode w = .error .imulReserved)

/-! ## The step -/

/-- A turn of the processor runs the decoded instruction: with an odd word at pc that decodes to `i`,
the step is `exec i`, on the state itself when the environment's script is empty, on the state without
the script's head when that head is a turn of the processor (R10, R301; the script is the model's,
log 14). -/
def Obligations.StepRunsDecoded : Prop :=
  ∀ (s : State) (i : Instr), i.wellFormed = true →
    oddParity (Memory.get s.cm s.pc.toNat) = true →
    decode (Memory.get s.cm s.pc.toNat) = .ok i →
    (s.env = [] → step s = exec i s) ∧
    (∀ rest, s.env = .processor :: rest → step s = exec i { s with env := rest })

/-- What a fetched word that is not run does, with the script empty: even parity is PECM, whatever the
other bits: pc at PECM_VECTOR and nothing else changed (R301, R302, D13, D25); an odd word that is no
instruction is the fault IllegalInstruction (R113, R307, D11). -/
def Obligations.BadWords : Prop :=
  ∀ s : State, s.env = [] →
    (oddParity (Memory.get s.cm s.pc.toNat) = false →
      step s = .next { s with pc := Config.pecmVector }) ∧
    (∀ why, oddParity (Memory.get s.cm s.pc.toNat) = true →
      decode (Memory.get s.cm s.pc.toNat) = .error why →
      step s = .fault (.illegalInstruction why))

/-- The environment's steps (R312, R314, R317, R318, D22, D23, D28): a turn of the environment fetches
nothing; the input strobe happens only while SH bit 1 is 0 (that one not allowed has no effect is the
model's, log 14). -/
def Obligations.EnvironmentSteps : Prop :=
  ∀ (s : State) (rest : List Turn),
    (∀ data ib9, s.env = .environment (.inputStrobe data ib9) :: rest →
      ∃ t, step s = .next t ∧
        (s.sh.getLsbD 1 = true → t = { s with env := rest }) ∧
        (s.sh.getLsbD 1 = false → t.k = data ∧ t.sh.getLsbD 1 = true ∧ t.sh.getLsbD 2 = ib9 ∧
          (∀ n, n ≠ 1 → n ≠ 2 → t.sh.getLsbD n = s.sh.getLsbD n) ∧
          t = { s with env := rest, k := t.k, sh := t.sh })) ∧
    (∀ v, s.env = .environment (.setReady v) :: rest →
      ∃ t, step s = .next t ∧ t.sh.getLsbD 3 = v ∧
        (∀ n, n ≠ 3 → t.sh.getLsbD n = s.sh.getLsbD n) ∧ t = { s with env := rest, sh := t.sh }) ∧
    (s.env = .environment .timerExpire :: rest →
      ∃ t, step s = .next t ∧ t.sh.getLsbD 4 = false ∧
        (∀ n, n ≠ 4 → t.sh.getLsbD n = s.sh.getLsbD n) ∧ t = { s with env := rest, sh := t.sh }) ∧
    (∀ v, s.env = .environment (.setHaltStep v) :: rest →
      ∃ t, step s = .next t ∧ t.sh.getLsbD 5 = v ∧
        (∀ n, n ≠ 5 → t.sh.getLsbD n = s.sh.getLsbD n) ∧ t = { s with env := rest, sh := t.sh })

/-- A JMP to its own address is an endless loop (R131, corner cases): from a state that holds it at pc
every number of steps is a safe run. -/
def Obligations.SelfJumpRuns : Prop :=
  ∀ s : State, s.env = [] → Memory.get s.cm s.pc.toNat = encode (.jmp s.pc) → ∀ n, s.runsSafely n

/-- Why an instruction can stop (R307): a well-formed instruction faults only for the stack, with 96
items or too few on it, and whether it is refused depends on its operands alone, never on the state. -/
def Obligations.StopReasons : Prop :=
  ∀ (i : Instr) (s : State), i.wellFormed = true →
    (∀ f, exec i s = .fault f →
      (f = .stackOverflow ∧ 96 ≤ s.stack.length) ∨ (f = .stackUnderflow ∧ s.stack.length ≤ 1)) ∧
    (∀ q, exec i s = .refused q → (∀ m, q ≠ .notModelled m) ∧ ∀ s', exec i s' = .refused q)

/-! ## Operands -/

/-- Tables 1 to 3 (R101, R102, R103), code by code. Table 1: what each A code reads and adds to PHPL
after the operation, as `readA` and `moveOf` and as an OR shows it; PHPL wraps modulo 65536 (D24).
Table 2: what each B code reads, SH as all eight bits; `readB` answers a value and no state, so no B
source has a side effect. Table 3: what each destination code writes besides DUM, as a SET shows it:
1010 and 1011 are illegal (D11), 1111 is no register, of SH each bit as D22 decides; pc goes on by
D1. -/
def Obligations.BusTables : Prop :=
  ∀ s : State,
    (∀ c, c < 16 →
      readA (ASrc.ofCode c) s = aValue c s ∧
      moveOf (ASrc.ofCode c) = BitVec.ofInt 16 (aAdj c) ∧
      ∃ t, exec (.or .asIs .none .dum (ASrc.ofCode c) .zero) s = .next t ∧ t.dum = aValue c s ∧
        t.phpl = s.phpl + BitVec.ofInt 16 (aAdj c) ∧
        t = { s with dum := t.dum, ph := t.ph, pl := t.pl, pc := s.pc + 1 }) ∧
    (∀ n : RegNum, readB (BSrc.ofCode n.val) s = s.x n) ∧
    readB (BSrc.ofCode 8) s = s.pl ∧ readB (BSrc.ofCode 9) s = s.ph ∧
    readB (BSrc.ofCode 10) s = s.cl ∧ readB (BSrc.ofCode 11) s = s.ch ∧
    readB (BSrc.ofCode 12) s = s.sl ∧ readB (BSrc.ofCode 13) s = s.sh ∧
    readB (BSrc.ofCode 14) s = s.k ∧ readB (BSrc.ofCode 15) s = 0 ∧
    (∀ (c : Nat) (v : Byte), c < 16 → c ≠ 10 → c ≠ 11 → c ≠ 13 →
      exec (.set .none (Dest.ofCode c) v) s =
        .next { cWritten c v s with dum := v, pc := s.pc + 1 }) ∧
    (∀ v : Byte, ∃ t, exec (.set .none (Dest.ofCode 13) v) s = .next t ∧
      t = { s with sh := t.sh, dum := v, pc := s.pc + 1 } ∧
      (∀ n, n = 0 ∨ n = 1 ∨ n = 7 → t.sh.getLsbD n = v.getLsbD n) ∧
      t.sh.getLsbD 6 = (v.getLsbD 6 && s.sh.getLsbD 6) ∧
      (∀ n, 2 ≤ n → n ≤ 5 → t.sh.getLsbD n = s.sh.getLsbD n)) ∧
    (∀ v : Byte,
      exec (.set .none (Dest.ofCode 10) v) s = .fault (.illegalInstruction .destination) ∧
      exec (.set .none (Dest.ofCode 11) v) s = .fault (.illegalInstruction .destination))

/-! ## Branches -/

/-- R131: pc takes the 16-bit target and nothing else changes; the encoding, and the three worked
examples. -/
def Obligations.JmpResult : Prop :=
  (∀ (target : Addr) (s : State), exec (.jmp target) s = .next { s with pc := target }) ∧
  (∀ target : Addr, encodeBody (.jmp target) =
    0x5C0000 + target.toNat % 1024 * 0x100 + target.toNat / 1024 * 4) ∧
  decode 0xDE6A08#24 = .ok (.jmp 0x0A6A#16) ∧ decode 0xDC0050#24 = .ok (.jmp 0x5000#16) ∧
  decode 0x5D2008#24 = .ok (.jmp 0x0920#16)

/-- R132: with room on the stack JSR pushes the address after its own (modulo 65536, D1) and jumps;
nothing else changes. -/
def Obligations.JsrResult : Prop :=
  ∀ (target : Addr) (s : State), s.stack.length < 96 →
    exec (.jsr target) s = .next { s with stack := (s.pc + 1) :: s.stack, pc := target }

/-- R307, D12: JSR and TPS with 96 items on the stack, RTS and TSP with none, RTS ,WC and ,RC with
fewer than two. -/
def Obligations.StackLimits : Prop :=
  ∀ s : State,
    (96 ≤ s.stack.length →
      (∀ t, exec (.jsr t) s = .fault .stackOverflow) ∧
      (∀ p mm x b, exec (.tps p mm x b) s = .fault .stackOverflow)) ∧
    (s.stack = [] →
      (∀ mm x b, exec (.tsp mm x b) s = .fault .stackUnderflow) ∧
      (∀ cm mm x b, exec (.rts cm mm x b) s = .fault .stackUnderflow)) ∧
    (s.stack.length ≤ 1 → ∀ mm x b,
      exec (.rts .write mm x b) s = .fault .stackUnderflow ∧
      exec (.rts .read mm x b) s = .fault .stackUnderflow)

/-- R140 to R144: BTL and BTH are taken when every bit of the mask that is 1 is 1 in the low or high
nibble of B, BFL and BFH when every such bit is 0. Only pc changes; the target is in the page of the
branch itself (D2), not taken it is the following word (D1). -/
def Obligations.MaskedBranches : Prop :=
  ∀ (x : BitVec 10) (c : Nibble) (b : BSrc) (s : State),
    (∃ t, exec (.btl x c b) s = .next t ∧ branchesTo s t x
      (∀ n, n < 4 → c.getLsbD n = true → (readB b s).getLsbD n = true)) ∧
    (∃ t, exec (.bth x c b) s = .next t ∧ branchesTo s t x
      (∀ n, n < 4 → c.getLsbD n = true → (readB b s).getLsbD (n + 4) = true)) ∧
    (∃ t, exec (.bfl x c b) s = .next t ∧ branchesTo s t x
      (∀ n, n < 4 → c.getLsbD n = true → (readB b s).getLsbD n = false)) ∧
    (∃ t, exec (.bfh x c b) s = .next t ∧ branchesTo s t x
      (∀ n, n < 4 → c.getLsbD n = true → (readB b s).getLsbD (n + 4) = false))

/-- R150 to R154: BEL and BNL compare the low nibble of B with the constant, BEH and BNH the high
nibble. Only pc changes (D1, D2). -/
def Obligations.ValuedBranches : Prop :=
  ∀ (x : BitVec 10) (c : Nibble) (b : BSrc) (s : State),
    (∃ t, exec (.bel x c b) s = .next t ∧
      branchesTo s t x ((readB b s).toNat % 16 = c.toNat)) ∧
    (∃ t, exec (.beh x c b) s = .next t ∧
      branchesTo s t x ((readB b s).toNat / 16 = c.toNat)) ∧
    (∃ t, exec (.bnl x c b) s = .next t ∧
      branchesTo s t x ((readB b s).toNat % 16 ≠ c.toNat)) ∧
    (∃ t, exec (.bnh x c b) s = .next t ∧
      branchesTo s t x ((readB b s).toNat / 16 ≠ c.toNat))

/-- R160, R162, R164, R166 to R169: the 8-bit comparisons, unsigned. Only pc and, for an A source with
`+` or `-`, the pointer change (D1, D2, D3; the adjustment taken or not is the spec's derivation). -/
def Obligations.CompareBranches : Prop :=
  ∀ (x : BitVec 10) (a : ASrc) (b : BSrc) (s : State),
    (∃ t, exec (.blr x a b) s = .next t ∧
      comparesTo s t x a ((readA a s).toNat < (readB b s).toNat)) ∧
    (∃ t, exec (.bler x a b) s = .next t ∧
      comparesTo s t x a ((readA a s).toNat ≤ (readB b s).toNat)) ∧
    (∃ t, exec (.ber x a b) s = .next t ∧ comparesTo s t x a (readA a s = readB b s)) ∧
    (∃ t, exec (.bnr x a b) s = .next t ∧ comparesTo s t x a (readA a s ≠ readB b s)) ∧
    (∃ t, exec (.bez x a) s = .next t ∧ comparesTo s t x a (readA a s = 0)) ∧
    (∃ t, exec (.bnz x a) s = .next t ∧ comparesTo s t x a (readA a s ≠ 0))

/-- R161, R163, R165: the 16-bit comparisons of two register pairs, unsigned. Only pc changes (D1, D2);
the operands are the pairs of D7. -/
def Obligations.CompareBranchesX : Prop :=
  ∀ (x : BitVec 10) (p q : Fin 7) (s : State),
    (∃ t, exec (.blrx x (.r (pairLow p)) (.r (pairLow q))) s = .next t ∧
      branchesTo s t x (pairNat s p < pairNat s q)) ∧
    (∃ t, exec (.blex x (.r (pairLow p)) (.r (pairLow q))) s = .next t ∧
      branchesTo s t x (pairNat s p ≤ pairNat s q))

/-! ## Forms the spec refuses -/

/-- R307, D7, D8: a 16-bit form with an A, B or destination code above 0110, and one with ,W1 or ,W2. -/
def Obligations.RefusedXForms : Prop :=
  (∀ (x : BitVec 10) (a : ASrc) (b : BSrc) (s : State), (6 < a.code ∨ 6 < b.code) →
    exec (.blrx x a b) s = .refused .xFormOperand ∧
    exec (.blex x a b) s = .refused .xFormOperand) ∧
  (∀ (cc : CarryCtl) (n : NibSel) (mm : MemOp) (d : Dest) (a : ASrc) (b : BSrc) (s : State)
    (i : Instr), i ∈ [.orx cc mm d a b, .xorx cc mm d a b, .andx cc mm d a b, .sbcx cc mm d a b,
      .dacx cc mm d a b, .dscx cc mm d a b, .adcx cc mm d a b, .mulx n mm d a b, .sdcx n mm d a b] →
    (6 < d.code ∨ 6 < a.code ∨ 6 < b.code → exec i s = .refused .xFormOperand) ∧
    (d.code ≤ 6 → a.code ≤ 6 → b.code ≤ 6 → memWrites mm = true →
      exec i s = .refused .xFormWrite))

/-- R307, D9, D10, D20: a `+` or `-` source with destination PL or PH; a carry-producing operation with
destination SH; CIO with ,W1 or ,W2. -/
def Obligations.RefusedCollisions : Prop :=
  (∀ (cc : CarryCtl) (n : NibSel) (mm : MemOp) (d : Dest) (a : ASrc) (b : BSrc) (s : State)
    (i : Instr), i ∈ [.or cc mm d a b, .xor cc mm d a b, .and cc mm d a b, .sbc cc mm d a b,
      .dac cc mm d a b, .dsc cc mm d a b, .adc cc mm d a b, .mul n mm d a b, .sdc n mm d a b] →
    (d = .pl ∨ d = .ph) → 8 ≤ a.code → a.code ≠ 10 → a.code ≠ 11 →
    exec i s = .refused .pointerCollision) ∧
  (∀ (cc : CarryCtl) (mm : MemOp) (a : ASrc) (b : BSrc) (s : State) (i : Instr),
    i ∈ [.sbc cc mm .sh a b, .dac cc mm .sh a b, .dsc cc mm .sh a b, .adc cc mm .sh a b] →
    exec i s = .refused .carryCollision) ∧
  (∀ (mm : MemOp) (imm : Byte) (b : BSrc) (s : State) (i : Instr),
    i ∈ [.idac mm .sh imm b, .idsc mm .sh imm b, .iadc mm .sh imm b] →
    exec i s = .refused .carryCollision) ∧
  (∀ (mm : MemOp) (clk abs obs cbs srs tim : Bool) (s : State), (mm = .w1 ∨ mm = .w2) →
    exec (.cio mm clk abs obs cbs srs tim) s = .refused .cioWrite)

/-! ## Register ALU and Immediate ALU, 8 bits -/

/-- R184, R186, R188, R231 to R235: OR, XOR, AND and IOR, SET, IXOR, IAND, IADD: the result in DUM and
in the destination, the carry as the carry control leaves it unless the destination is SH (D3). -/
def Obligations.LogicalResults : Prop :=
  (∀ (cc : CarryCtl) (mm : MemOp) (d : Dest) (a : ASrc) (b : BSrc) (s : State), runs8 false d a →
    (∃ t, exec (.or cc mm d a b) s = .next t ∧ t.dum = readA a s ||| bValue cc b s ∧
      t.destHolds d t.dum ∧ (d ≠ .sh → t.carry = carryIn cc s)) ∧
    (∃ t, exec (.xor cc mm d a b) s = .next t ∧ t.dum = readA a s ^^^ bValue cc b s ∧
      t.destHolds d t.dum ∧ (d ≠ .sh → t.carry = carryIn cc s)) ∧
    (∃ t, exec (.and cc mm d a b) s = .next t ∧ t.dum = readA a s &&& bValue cc b s ∧
      t.destHolds d t.dum ∧ (d ≠ .sh → t.carry = carryIn cc s))) ∧
  (∀ (mm : MemOp) (d : Dest) (imm : Byte) (b : BSrc) (s : State), runsImm false d →
    (∃ t, exec (.ior mm d imm b) s = .next t ∧ t.dum = imm ||| readB b s ∧
      t.destHolds d t.dum ∧ (d ≠ .sh → t.carry = s.carry)) ∧
    (∃ t, exec (.set mm d imm) s = .next t ∧ t.dum = imm ∧
      t.destHolds d t.dum ∧ (d ≠ .sh → t.carry = s.carry)) ∧
    (∃ t, exec (.ixor mm d imm b) s = .next t ∧ t.dum = imm ^^^ readB b s ∧
      t.destHolds d t.dum ∧ (d ≠ .sh → t.carry = s.carry)) ∧
    (∃ t, exec (.iand mm d imm b) s = .next t ∧ t.dum = imm &&& readB b s ∧
      t.destHolds d t.dum ∧ (d ≠ .sh → t.carry = s.carry)) ∧
    (∃ t, exec (.iadd mm d imm b) s = .next t ∧
      t.dum.toNat = (imm.toNat + (readB b s).toNat) % 256 ∧
      t.destHolds d t.dum ∧ (d ≠ .sh → t.carry = s.carry)))

/-- R196 and R238: ADC and IADC: the sum with the carry, modulo 256, in DUM and in the destination; the
carry is the carry out of bit 7; the encodings of both. -/
def Obligations.BinaryAdd : Prop :=
  (∀ (cc : CarryCtl) (mm : MemOp) (d : Dest) (a : ASrc) (b : BSrc) (s : State), runs8 true d a →
    ∃ t, exec (.adc cc mm d a b) s = .next t ∧
      let sum := (readA a s).toNat + (bValue cc b s).toNat + (carryIn cc s).toNat
      t.dum.toNat = sum % 256 ∧ t.destHolds d t.dum ∧ t.carry = decide (256 ≤ sum)) ∧
  (∀ (mm : MemOp) (d : Dest) (imm : Byte) (b : BSrc) (s : State), runsImm true d →
    ∃ t, exec (.iadc mm d imm b) s = .next t ∧
      let sum := imm.toNat + (readB b s).toNat + s.carry.toNat
      t.dum.toNat = sum % 256 ∧ t.destHolds d t.dum ∧ t.carry = decide (256 ≤ sum)) ∧
  (∀ cc mm d a b, encodeBody (.adc cc mm d a b) = wordReg 0x180000 cc.code mm d a b) ∧
  (∀ mm d imm b, encodeBody (.iadc mm d imm b) = 0x380000 + imm.toNat / 16 * 0x4000 +
    mm.code * 0x1000 + d.code * 0x100 + imm.toNat % 16 * 0x10 + b.code)

/-- R190: SBC: `a + (255 - b) + cin`, that is `a - b - 1 + cin`, modulo 256, in DUM and in the
destination; the carry is 1 where there is no borrow; the encoding. -/
def Obligations.BinarySubtract : Prop :=
  (∀ (cc : CarryCtl) (mm : MemOp) (d : Dest) (a : ASrc) (b : BSrc) (s : State), runs8 true d a →
    ∃ t, exec (.sbc cc mm d a b) s = .next t ∧
      let diff : Int := (readA a s).toNat - (bValue cc b s).toNat - 1 + (carryIn cc s).toNat
      (t.dum.toNat : Int) = diff % 256 ∧ t.destHolds d t.dum ∧ t.carry = decide (0 ≤ diff)) ∧
  (∀ cc mm d a b, encodeBody (.sbc cc mm d a b) = wordReg 0x0C0000 cc.code mm d a b)

/-- R192, R194, R202, R203, R236, R237: DAC, IDAC, DSC, IDSC on any digits, by the per-digit formulas
(whose reading of digits A to F is the fit of D21). -/
def Obligations.DecimalResults : Prop :=
  (∀ (cc : CarryCtl) (mm : MemOp) (d : Dest) (a : ASrc) (b : BSrc) (s : State), runs8 true d a →
    (∃ t, exec (.dac cc mm d a b) s = .next t ∧ t.destHolds d t.dum ∧
      decimalSum (readA a s) (bValue cc b s) (carryIn cc s) t.dum t.carry) ∧
    (∃ t, exec (.dsc cc mm d a b) s = .next t ∧ t.destHolds d t.dum ∧
      decimalDiff (readA a s) (bValue cc b s) (carryIn cc s) t.dum t.carry)) ∧
  (∀ (mm : MemOp) (d : Dest) (imm : Byte) (b : BSrc) (s : State), runsImm true d →
    (∃ t, exec (.idac mm d imm b) s = .next t ∧ t.destHolds d t.dum ∧
      decimalSum imm (readB b s) s.carry t.dum t.carry) ∧
    (∃ t, exec (.idsc mm d imm b) s = .next t ∧ t.destHolds d t.dum ∧
      decimalDiff imm (readB b s) s.carry t.dum t.carry))

/-- What decimal arithmetic means on decimal digits (R192, R194, R202, R203): the two-digit sum and
difference, with the carry a hundred carried or borrowed, and a result of decimal digits. -/
def Obligations.DecimalMeaning : Prop :=
  (∀ (cc : CarryCtl) (mm : MemOp) (d : Dest) (a : ASrc) (b : BSrc) (s : State), runs8 true d a →
    isBcd (readA a s) → isBcd (bValue cc b s) →
    (∃ t, exec (.dac cc mm d a b) s = .next t ∧ isBcd t.dum ∧ bcd t.dum + 100 * t.carry.toNat =
      bcd (readA a s) + bcd (bValue cc b s) + (carryIn cc s).toNat) ∧
    (∃ t, exec (.dsc cc mm d a b) s = .next t ∧ isBcd t.dum ∧
      bcd t.dum + bcd (bValue cc b s) + (carryIn cc s).toNat =
        bcd (readA a s) + 100 * t.carry.toNat)) ∧
  (∀ (mm : MemOp) (d : Dest) (imm : Byte) (b : BSrc) (s : State), runsImm true d →
    isBcd imm → isBcd (readB b s) →
    (∃ t, exec (.idac mm d imm b) s = .next t ∧ isBcd t.dum ∧
      bcd t.dum + 100 * t.carry.toNat = bcd imm + bcd (readB b s) + s.carry.toNat) ∧
    (∃ t, exec (.idsc mm d imm b) s = .next t ∧ isBcd t.dum ∧
      bcd t.dum + bcd (readB b s) + s.carry.toNat = bcd imm + 100 * t.carry.toNat))

/-- R99, R198, R200, R239: MUL, SDC and IMUL by the nibbles selected (code bit 1 the B nibble, bit 0
the A nibble, 1 the upper); no carry control, the carry unchanged unless the destination is SH (D3). -/
def Obligations.NibbleResults : Prop :=
  (∀ (n : NibSel) (mm : MemOp) (d : Dest) (a : ASrc) (b : BSrc) (s : State), runs8 false d a →
    let na := pick (n.code.testBit 0) (readA a s)
    let nb := pick (n.code.testBit 1) (readB b s)
    (∃ t, exec (.mul n mm d a b) s = .next t ∧ t.dum.toNat = na * nb ∧ t.destHolds d t.dum ∧
      (d ≠ .sh → t.carry = s.carry)) ∧
    (∃ t, exec (.sdc n mm d a b) s = .next t ∧ t.dum.toNat = nb * 16 + na ∧ t.destHolds d t.dum ∧
      (d ≠ .sh → t.carry = s.carry))) ∧
  (∀ (high : Bool) (mm : MemOp) (d : Dest) (c : Nibble) (b : BSrc) (s : State), runsImm false d →
    ∃ t, exec (.imul high mm d c b) s = .next t ∧ t.dum.toNat = c.toNat * pick high (readB b s) ∧
      t.destHolds d t.dum ∧ (d ≠ .sh → t.carry = s.carry))

/-- The frame of the eighteen 8-bit ALU instructions (OR, XOR, AND, SBC, DAC, DSC, ADC, MUL, SDC, IOR,
SET, IXOR, IAND, IADD, IDAC, IDSC, IADC, IMUL): besides DUM, the destination and the carry, only the
pointer by the `+` or `-` of the A source, what the Data Memory field does, SH bit 6 by a flagged read,
and pc (R180, R230; D1, D3, D6, D13, D22, D24, D27). -/
def Obligations.Alu8Frame : Prop :=
  ∀ (i : Instr) (d : Dest) (s t : State), destOf i = some d → exec i s = .next t →
    Alu8Effect s t (memOpOf i) d (pointerMove i) t.dum

/-! ## Register ALU, 16-bit forms -/

/-- R185, R187, R189: ORX, XORX, ANDX on register pairs, each byte separately; all four source bytes
read before either result byte is written (D7); the carry as the carry control leaves it (D3). -/
def Obligations.LogicalXResults : Prop :=
  ∀ (cc : CarryCtl) (mm : MemOp) (d a b : Fin 7) (s : State), memWrites mm = false →
    (∃ t, exec (.orx cc mm (.r (pairLow d)) (.r (pairLow a)) (.r (pairLow b))) s = .next t ∧
      t.x (pairLow d) = s.x (pairLow a) ||| s.x (pairLow b) ∧
      t.x (pairHigh d) = s.x (pairHigh a) ||| s.x (pairHigh b) ∧ t.carry = carryIn cc s) ∧
    (∃ t, exec (.xorx cc mm (.r (pairLow d)) (.r (pairLow a)) (.r (pairLow b))) s = .next t ∧
      t.x (pairLow d) = s.x (pairLow a) ^^^ s.x (pairLow b) ∧
      t.x (pairHigh d) = s.x (pairHigh a) ^^^ s.x (pairHigh b) ∧ t.carry = carryIn cc s) ∧
    (∃ t, exec (.andx cc mm (.r (pairLow d)) (.r (pairLow a)) (.r (pairLow b))) s = .next t ∧
      t.x (pairLow d) = s.x (pairLow a) &&& s.x (pairLow b) ∧
      t.x (pairHigh d) = s.x (pairHigh a) &&& s.x (pairHigh b) ∧ t.carry = carryIn cc s)

/-- R197 and R191: ADCX gives `(a16 + b16 + cin) mod 65536`, SBCX `(a16 + (65535 - b16) + cin) mod
65536`, the carry the carry out of bit 15; the encodings of both. -/
def Obligations.BinaryX : Prop :=
  (∀ (cc : CarryCtl) (mm : MemOp) (d a b : Fin 7) (s : State), memWrites mm = false →
    (∃ t, exec (.adcx cc mm (.r (pairLow d)) (.r (pairLow a)) (.r (pairLow b))) s = .next t ∧
      let sum := pairNat s a + pairNat s b + (carryIn cc s).toNat
      pairNat t d = sum % 65536 ∧ t.carry = decide (65536 ≤ sum)) ∧
    (∃ t, exec (.sbcx cc mm (.r (pairLow d)) (.r (pairLow a)) (.r (pairLow b))) s = .next t ∧
      let sum := pairNat s a + (65535 - pairNat s b) + (carryIn cc s).toNat
      pairNat t d = sum % 65536 ∧ t.carry = decide (65536 ≤ sum))) ∧
  (∀ cc mm d a b, encodeBody (.adcx cc mm d a b) = wordReg 0x1A0000 cc.code mm d a b) ∧
  (∀ cc mm d a b, encodeBody (.sbcx cc mm d a b) = wordReg 0x0E0000 cc.code mm d a b)

/-- R193, R195: DACX and DSCX: four digits, the carry or borrow of the low byte feeding the high byte
(D7, D21). -/
def Obligations.DecimalXResults : Prop :=
  ∀ (cc : CarryCtl) (mm : MemOp) (d a b : Fin 7) (s : State), memWrites mm = false →
    (∃ t, exec (.dacx cc mm (.r (pairLow d)) (.r (pairLow a)) (.r (pairLow b))) s = .next t ∧
      ∃ c, decimalSum (s.x (pairLow a)) (s.x (pairLow b)) (carryIn cc s) (t.x (pairLow d)) c ∧
        decimalSum (s.x (pairHigh a)) (s.x (pairHigh b)) c (t.x (pairHigh d)) t.carry) ∧
    (∃ t, exec (.dscx cc mm (.r (pairLow d)) (.r (pairLow a)) (.r (pairLow b))) s = .next t ∧
      ∃ c, decimalDiff (s.x (pairLow a)) (s.x (pairLow b)) (carryIn cc s) (t.x (pairLow d)) c ∧
        decimalDiff (s.x (pairHigh a)) (s.x (pairHigh b)) c (t.x (pairHigh d)) t.carry)

/-- R199, R201: MULX and SDCX: two independent byte operations with one selection; the carry unchanged
(D3, D7). -/
def Obligations.NibbleXResults : Prop :=
  ∀ (n : NibSel) (mm : MemOp) (d a b : Fin 7) (s : State), memWrites mm = false →
    let na := fun r => pick (n.code.testBit 0) (s.x r)
    let nb := fun r => pick (n.code.testBit 1) (s.x r)
    (∃ t, exec (.mulx n mm (.r (pairLow d)) (.r (pairLow a)) (.r (pairLow b))) s = .next t ∧
      (t.x (pairLow d)).toNat = na (pairLow a) * nb (pairLow b) ∧
      (t.x (pairHigh d)).toNat = na (pairHigh a) * nb (pairHigh b) ∧ t.carry = s.carry) ∧
    (∃ t, exec (.sdcx n mm (.r (pairLow d)) (.r (pairLow a)) (.r (pairLow b))) s = .next t ∧
      (t.x (pairLow d)).toNat = nb (pairLow b) * 16 + na (pairLow a) ∧
      (t.x (pairHigh d)).toNat = nb (pairHigh b) * 16 + na (pairHigh a) ∧ t.carry = s.carry)

/-- The frame of the nine 16-bit ALU instructions (ORX, XORX, ANDX, SBCX, DACX, DSCX, ADCX, MULX,
SDCX): besides the pair, the carry and DUM (which R183 leaves open), only what a ,RD does, SH bit 6 by
a flagged read, and pc (R183; D1, D7, D8, D13, D27). -/
def Obligations.Alu16Frame : Prop :=
  ∀ (i : Instr) (d : Fin 7) (s t : State), destXOf i = some (.r (pairLow d)) → exec i s = .next t →
    Alu16Effect s t (memOpOf i) d (t.x (pairLow d)) (t.x (pairHigh d))

/-- R205: an X form is two links of a carry chain: the 8-bit instruction on the low registers, then
the same one with the carry as it stands on the high registers, where the low result overwrites no
register that is still to be read. For ADC, SBC, DAC and DSC. -/
def Obligations.CarryChain : Prop :=
  ∀ (cc : CarryCtl) (d a b : Fin 7) (s : State),
    pairLow d ≠ pairHigh a → pairLow d ≠ pairHigh b →
    ∀ (wide : CarryCtl → MemOp → Dest → ASrc → BSrc → Instr)
      (link : CarryCtl → MemOp → Dest → ASrc → BSrc → Instr),
      (wide, link) ∈ [(Instr.adcx, Instr.adc), (Instr.sbcx, Instr.sbc), (Instr.dacx, Instr.dac),
        (Instr.dscx, Instr.dsc)] →
      ∃ t u v,
        exec (wide cc .none (.r (pairLow d)) (.r (pairLow a)) (.r (pairLow b))) s = .next t ∧
        exec (link cc .none (.r (pairLow d)) (.r (pairLow a)) (.r (pairLow b))) s = .next u ∧
        exec (link .asIs .none (.r (pairHigh d)) (.r (pairHigh a)) (.r (pairHigh b))) u = .next v ∧
        t.r = v.r ∧ t.sh = v.sh ∧ t.dm = v.dm ∧ v.pc = t.pc + 1

/-! ## CIO and LPI -/

/-- R250 to R253, R311: CIO without a write: AB is clocked from K before the event is emitted, the
event shows AB, K and the strobes, the one-shots set SH bits 1 and 4; nothing else but a ,RD's effect
and pc changes (D1, D13, D23, D27, D28; DUM is not among the registers R250 writes, log 12). -/
def Obligations.CioResult : Prop :=
  ∀ (mm : MemOp) (clk abs obs cbs srs tim : Bool) (s : State), memWrites mm = false →
    ∃ t, exec (.cio mm clk abs obs cbs srs tim) s = .next t ∧
      t.ab = (if clk = true then s.k else s.ab) ∧
      t.io = s.io ++ [⟨t.ab, s.k, abs, obs, cbs⟩] ∧
      t.sh.getLsbD 1 = (srs || s.sh.getLsbD 1) ∧ t.sh.getLsbD 4 = (tim || s.sh.getLsbD 4) ∧
      (∀ n, n ≠ 1 → n ≠ 4 → n ≠ 6 → t.sh.getLsbD n = s.sh.getLsbD n) ∧
      t.pedm = pedmAfter s mm s.phpl ∧ MemEffect s t mm s.phpl 0 ∧
      t.pc = pcAfter s t mm s.phpl (s.pc + 1) ∧
      t.r = s.r ∧ t.ph = s.ph ∧ t.pl = s.pl ∧ t.k = s.k ∧ t.sl = s.sl ∧ t.dum = s.dum ∧
      t.ar = s.ar ∧ t.stack = s.stack ∧ t.cm = s.cm ∧ t.env = s.env

/-- R260: LPI: PHPL takes the address, the Data Memory operation is at the new pointer and a write
sends $00; nothing else but SH bit 6 by a flagged read, pc and DUM (a free value, log 12) changes
(D1, D13, D27). -/
def Obligations.LpiResult : Prop :=
  ∀ (mm : MemOp) (addr : Addr) (s : State),
    ∃ t, exec (.lpi mm addr) s = .next t ∧
      t.ph = addr.extractLsb' 8 8 ∧ t.pl = addr.extractLsb' 0 8 ∧
      MemEffect s t mm addr 0 ∧ t.pc = pcAfter s t mm addr (s.pc + 1) ∧
      (∀ n, n ≠ 6 → t.sh.getLsbD n = s.sh.getLsbD n) ∧ t.pedm = pedmAfter s mm addr ∧
      t.r = s.r ∧ t.sl = s.sl ∧ t.k = s.k ∧ t.ab = s.ab ∧ t.ar = s.ar ∧ t.stack = s.stack ∧
      t.cm = s.cm ∧ t.io = s.io ∧ t.env = s.env

/-! ## Stack and auxiliary registers -/

/-- R272 to R275: TPA and XPA put the adjusted pointer in the auxiliary register, XPA and TAP put the
old auxiliary register in PHPL, unadjusted; the other registers keep their values (D24; D1, D13, D27
in `AuxEffect`). -/
def Obligations.PointerTransfers : Prop :=
  ∀ (p : PCtl) (mm : MemOp) (x : Bool) (r : ArNum) (b : BSrc) (s : State),
    (∃ t, exec (.tpa p mm x r b) s = .next t ∧ AuxEffect s t mm b (s.pc + 1) ∧
      t.aux r = s.phpl + BitVec.ofInt 16 (pAdj p.code) ∧ (∀ n, n ≠ r → t.aux n = s.aux n) ∧
      t.phpl = s.phpl ∧ t.k = s.k ∧ t.stack = s.stack ∧ t.cm = s.cm) ∧
    (∃ t, exec (.xpa p mm x r b) s = .next t ∧ AuxEffect s t mm b (s.pc + 1) ∧
      t.aux r = s.phpl + BitVec.ofInt 16 (pAdj p.code) ∧ (∀ n, n ≠ r → t.aux n = s.aux n) ∧
      t.phpl = s.aux r ∧ t.k = s.k ∧ t.stack = s.stack ∧ t.cm = s.cm) ∧
    (∃ t, exec (.tap mm x r b) s = .next t ∧ AuxEffect s t mm b (s.pc + 1) ∧
      t.phpl = s.aux r ∧ t.ar = s.ar ∧ t.k = s.k ∧ t.stack = s.stack ∧ t.cm = s.cm)

/-- R276, R277: TPS pushes the adjusted pointer, TSP pops the pointer; the other registers keep their
values (D12, D24; D1, D13, D27 in `AuxEffect`). -/
def Obligations.StackTransfers : Prop :=
  (∀ (p : PCtl) (mm : MemOp) (x : Bool) (b : BSrc) (s : State), s.stack.length < 96 →
    ∃ t, exec (.tps p mm x b) s = .next t ∧ AuxEffect s t mm b (s.pc + 1) ∧
      t.stack = (s.phpl + BitVec.ofInt 16 (pAdj p.code)) :: s.stack ∧
      t.phpl = s.phpl ∧ t.ar = s.ar ∧ t.k = s.k ∧ t.cm = s.cm) ∧
  (∀ (mm : MemOp) (x : Bool) (b : BSrc) (s : State) (v : Addr) (rest : List Addr),
    s.stack = v :: rest →
    ∃ t, exec (.tsp mm x b) s = .next t ∧ AuxEffect s t mm b (s.pc + 1) ∧
      t.phpl = v ∧ t.stack = rest ∧ t.ar = s.ar ∧ t.k = s.k ∧ t.cm = s.cm)

/-- R278: the plain return, with both codes of Table 5 that mean no operation: pc takes the popped
item (D12; D13, D27 in `AuxEffect`). -/
def Obligations.PlainReturn : Prop :=
  ∀ (c : CmCtl) (mm : MemOp) (x : Bool) (b : BSrc) (s : State) (v : Addr) (rest : List Addr),
    c.code ≤ 1 → s.stack = v :: rest →
    ∃ t, exec (.rts c mm x b) s = .next t ∧ AuxEffect s t mm b v ∧ t.stack = rest ∧
      t.phpl = s.phpl ∧ t.ar = s.ar ∧ t.k = s.k ∧ t.cm = s.cm

/-- R74, R75, R279, R280: RTS ,WC writes `(~K) : PH : PL` at the first item popped, where that word is
writable (D18), and returns to the second; every other word, K and PHPL keep their values (D12; D13,
D27 in `AuxEffect`). -/
def Obligations.WriteReturn : Prop :=
  ∀ (mm : MemOp) (x : Bool) (b : BSrc) (s : State) (a v : Addr) (rest : List Addr),
    Memory.wf s.cm → s.stack = a :: v :: rest →
    ∃ t, exec (.rts .write mm x b) s = .next t ∧ AuxEffect s t mm b v ∧ t.stack = rest ∧
      (t.cmRead a).toNat = (if Config.cmWritable a = true then
        (255 - s.k.toNat) * 65536 + s.ph.toNat * 256 + s.pl.toNat else (s.cmRead a).toNat) ∧
      (∀ n, n ≠ a → t.cmRead n = s.cmRead n) ∧
      t.phpl = s.phpl ∧ t.ar = s.ar ∧ t.k = s.k

/-- R279, R281: RTS ,RC loads K, PH and PL with the three bytes of the word at the first item popped,
whatever its parity and not complemented (D17), and returns to the second (D12; D13, D27 in
`AuxEffect`). -/
def Obligations.ReadReturn : Prop :=
  ∀ (mm : MemOp) (x : Bool) (b : BSrc) (s : State) (a v : Addr) (rest : List Addr),
    s.stack = a :: v :: rest →
    ∃ t, exec (.rts .read mm x b) s = .next t ∧ AuxEffect s t mm b v ∧ t.stack = rest ∧
      t.k.toNat * 65536 + t.ph.toNat * 256 + t.pl.toNat = (s.cmRead a).toNat ∧
      t.ar = s.ar ∧ t.cm = s.cm

/-- A subroutine call and its return (R132, R278): after JSR and a plain RTS pc is at the word after
the JSR, and of all state only DUM differs besides. -/
def Obligations.CallReturn : Prop :=
  ∀ (target : Addr) (x : Bool) (b : BSrc) (s : State), s.stack.length < 96 →
    ∃ t u, exec (.jsr target) s = .next t ∧ exec (.rts .noOp .none x b) t = .next u ∧
      u = { s with pc := s.pc + 1, dum := readB b s }

/-- The computed transfer of R282: TPS and then RTS put pc at PHPL plus the P adjustment, and leave
every other register, both memories and the stack as they were but for DUM. -/
def Obligations.ComputedTransfer : Prop :=
  ∀ (p : PCtl) (x y : Bool) (b c : BSrc) (s : State), s.stack.length < 96 →
    ∃ t u, exec (.tps p .none x b) s = .next t ∧ exec (.rts .noOp .none y c) t = .next u ∧
      u = { s with pc := s.phpl + BitVec.ofInt 16 (pAdj p.code), dum := u.dum }

/-- A word written by RTS ,WC is the word an RTS ,RC of that address reads, and the word a fetch at
that address meets, where it is writable (R81, R280, R281, R338; D16, D17, D18): K comes back
complemented. -/
def Obligations.ControlWordReadBack : Prop :=
  ∀ (x y : Bool) (b c : BSrc) (s : State) (a v w : Addr) (rest : List Addr), Memory.wf s.cm →
    s.stack = a :: v :: a :: w :: rest →
    ∃ t u, exec (.rts .write .none x b) s = .next t ∧ exec (.rts .read .none y c) t = .next u ∧
      (Config.cmWritable a = true →
        u.k = ~~~s.k ∧ u.ph = s.ph ∧ u.pl = s.pl ∧ ({ u with pc := a } : State).fetch = t.cmRead a ∧
        (t.cmRead a).toNat = (255 - s.k.toNat) * 65536 + s.ph.toNat * 256 + s.pl.toNat) ∧
      (Config.cmWritable a = false → t.cm = s.cm)

/-! ## Rules of the whole machine -/

/-- The Data Memory field of every instruction: its effect, at the latched pointer and in the bank of
the SL before the instruction, with the byte the instruction sends (R63 to R68, R70, R72, R260; D4,
D6, D27); an instruction without the field leaves CH, CL and Data Memory alone. -/
def Obligations.MemoryEffectOfEvery : Prop :=
  ∀ (i : Instr) (s t : State), exec i s = .next t →
    MemEffect s t (memOpOf i) (latchOf i s) (storedBy i t)

/-- Where every instruction that is no branch leaves pc (R28, R278, R279, R303; D1, D13, D27): at
PEDM_VECTOR after a flagged read with DMPI 0, else at its next address. -/
def Obligations.NextPcOfEvery : Prop :=
  ∀ (i : Instr) (s t : State), isBranch i = false → exec i s = .next t →
    t.pc = pcAfter s t (memOpOf i) (latchOf i s) (nextOf i s)

/-- Who changes SH (R31 to R38, R204, R252, R253, R303; D3, D22): no instruction changes bits 2, 3 and
5; bit 4 is only set, by CIO TIM; bit 1 and bit 7 change only with destination SH, bit 1 also by CIO
bit 7; bit 6 without destination SH only by a flagged read; the carry only by the instructions that
produce one, the carry control and destination SH. -/
def Obligations.StatusOwners : Prop :=
  ∀ (i : Instr) (s t : State), exec i s = .next t →
    t.sh.getLsbD 2 = s.sh.getLsbD 2 ∧ t.sh.getLsbD 3 = s.sh.getLsbD 3 ∧
    t.sh.getLsbD 5 = s.sh.getLsbD 5 ∧
    (t.sh.getLsbD 4 = s.sh.getLsbD 4 ∨
      ∃ mm clk abs obs cbs srs, i = .cio mm clk abs obs cbs srs true ∧ t.sh.getLsbD 4 = true) ∧
    (destOf i ≠ some .sh →
      t.dmpi = s.dmpi ∧ t.pedm = pedmAfter s (memOpOf i) (latchOf i s) ∧
      (t.ibs = s.ibs ∨ ∃ mm clk abs obs cbs tim, i = .cio mm clk abs obs cbs true tim ∧
        t.ibs = true) ∧
      (producesCarry i = false → t.carry = carryIn (carryCtlOf i) s))

/-- Who changes what else (R25, R45, R78, R311): AB and the output trace only CIO, the trace by one
event; the auxiliary registers only TPA and XPA; the stack only JSR, TPS, TSP, RTS; Control Memory only
RTS ,WC; K only destination K and RTS ,RC; SL only destination SL; the script no instruction. -/
def Obligations.RegisterOwners : Prop :=
  ∀ (i : Instr) (s t : State), exec i s = .next t →
    ((∃ mm clk abs obs cbs srs tim, i = .cio mm clk abs obs cbs srs tim ∧
      t.io.length = s.io.length + 1) ∨ (t.ab = s.ab ∧ t.io = s.io)) ∧
    ((∃ p mm x r b, (i = .tpa p mm x r b ∨ i = .xpa p mm x r b) ∧
      ∀ n, n ≠ r → t.aux n = s.aux n) ∨ t.ar = s.ar) ∧
    ((∃ a, i = .jsr a) ∨ (∃ p mm x b, i = .tps p mm x b) ∨ (∃ mm x b, i = .tsp mm x b) ∨
      (∃ c mm x b, i = .rts c mm x b) ∨ t.stack = s.stack) ∧
    ((∃ mm x b, i = .rts .write mm x b) ∨ t.cm = s.cm) ∧
    (destOf i = some .k ∨ (∃ mm x b, i = .rts .read mm x b) ∨ t.k = s.k) ∧
    (destOf i = some .sl ∨ t.sl = s.sl) ∧ t.env = s.env

/-- Only RTS ,WC and RTS ,RC move data to or from Control Memory (R60, R74): every other instruction
does the same to the rest of the machine whatever Control Memory holds. -/
def Obligations.ControlMemoryIsolated : Prop :=
  ∀ (i : Instr) (s : State) (m : Memory 24),
    (∀ mm x b, i ≠ .rts .write mm x b) → (∀ mm x b, i ≠ .rts .read mm x b) →
    exec i (s.setCm m) = mapNext (fun t => t.setCm m) (exec i s)

/-- No step writes the words of Control Memory that are not writable (R75, D18), the bytes of absent
Data Memory (R72, D27), or the bytes below $2000 of the banks above 0 (R63). -/
def Obligations.UnwritableKept : Prop :=
  ∀ (s t : State), step s = .next t →
    (∀ a : Addr, Config.cmWritable a = true ∨ t.cmRead a = s.cmRead a) ∧
    (∀ k : Nat, reachableDm k ∨ Memory.get t.dm k = Memory.get s.dm k)

/-- Where the Data Memory access of every instruction goes (R61, R63, R64, R67, R72): an address below
$2000 is in bank 0, one at or above it in the bank that the SL of before the instruction selects (D6),
both bytes of a word in one bank; the byte of bank b at address a is number b * 65536 + a of `dm` (log
22). Where the word is not fitted a read signals and a write is discarded (D27). Two LPI that differ in
SL alone do the same below $2000. -/
def Obligations.GlobalRegionAndBanks : Prop :=
  (∀ (i : Instr) (s t : State), exec i s = .next t →
    let bank := fun a : Addr => if a.toNat < 0x2000 then 0 else (Config.bankOfSl s.sl).val
    let key := fun a : Addr => bank a * 65536 + a.toNat
    let fitted := fun a : Addr => Config.dmWordPresent (bank a) (BitVec.ofNat 15 (a.toNat / 2))
    let ma := latchOf i s
    (memOpOf i = .rd → if fitted ma = true
      then t.ch = Memory.get s.dm (key ma) ∧ t.cl = Memory.get s.dm (key (ma ^^^ 1#16))
      else t.pedm = true) ∧
    (∀ p, (memOpOf i = .w1 ∧ p = ma) ∨ (memOpOf i = .w2 ∧ p = ma ^^^ 1#16) →
      (Memory.wf s.dm → Memory.get t.dm (key p) =
        if fitted p = true then storedBy i t else Memory.get s.dm (key p)) ∧
      ∀ k, k ≠ key p → Memory.get t.dm k = Memory.get s.dm k)) ∧
  (∀ (a : Addr) (v : Byte) (s : State), a.toNat < 0x2000 →
    (∃ t u, exec (.lpi .rd a) s = .next t ∧ exec (.lpi .rd a) (s.setSl v) = .next u ∧
      u.ch = t.ch ∧ u.cl = t.cl ∧ u.pc = t.pc) ∧
    (∀ mm, ∃ t u, exec (.lpi mm a) s = .next t ∧ exec (.lpi mm a) (s.setSl v) = .next u ∧
      u.dm = t.dm))

/-- A byte stored by one instruction is the byte the next read of it loads (R64, R67, R337; D15, D27),
through DUM at the pointer (,W1) and at the other byte of the word (,W2), where memory is fitted. -/
def Obligations.StoreThenLoad : Prop :=
  ∀ (v w : Byte) (s : State), Memory.wf s.dm →
    (∃ t u, exec (.set .w1 .dum v) s = .next t ∧ exec (.set .rd .dum w) t = .next u ∧
      (dmPresent s.sl s.phpl = true → u.ch = v ∧ u.cl = s.dmRead s.sl (otherByte s.phpl))) ∧
    (∃ t u, exec (.set .w2 .dum v) s = .next t ∧ exec (.set .rd .dum w) t = .next u ∧
      (dmPresent s.sl s.phpl = true → u.cl = v ∧ u.ch = s.dmRead s.sl s.phpl))

/-- The invariant is kept by every step, from every state that meets it: both memories in canonical
form and inside their address spaces, the stack at most 96 items deep. -/
def Obligations.InvariantKept : Prop :=
  ∀ (s t : State), s.Inv → step s = .next t → t.Inv

/-- The state after reset meets the invariant, and its stack is empty (R330, D14). -/
def Obligations.InvariantAtReset : Prop :=
  State.reset.Inv ∧ State.reset.stack = []
end

