-- ==== Sys2Proof/Laws/Decode.lean ====
section
/-! SUPPORT. The laws of the operand codes, of the fields of a word and of its parity bit. -/

namespace Sys2Proof

/-! ## Operand codes -/

theorem ASrc.code_lt (a : ASrc) : a.code < 16 := by
  cases a <;> simp only [ASrc.code] <;> omega

theorem BSrc.code_lt (b : BSrc) : b.code < 16 := by
  cases b <;> simp only [BSrc.code] <;> omega

theorem Dest.code_lt (d : Dest) : d.code < 16 := by
  cases d <;> simp only [Dest.code] <;> omega

theorem MemOp.code_lt (m : MemOp) : m.code < 4 := by cases m <;> decide

theorem CarryCtl.code_lt (c : CarryCtl) : c.code < 4 := by cases c <;> decide

theorem NibSel.code_lt (n : NibSel) : n.code < 4 := by cases n <;> decide

theorem PCtl.code_lt (p : PCtl) : p.code < 8 := by cases p <;> decide

theorem CmCtl.code_lt (c : CmCtl) : c.code < 4 := by cases c <;> decide

@[simp] theorem ASrc.ofCode_code (a : ASrc) : ASrc.ofCode a.code = a := by
  cases a with
  | r n => revert n; decide
  | _ => rfl

@[simp] theorem BSrc.ofCode_code (b : BSrc) : BSrc.ofCode b.code = b := by
  cases b with
  | r n => revert n; decide
  | _ => rfl

@[simp] theorem Dest.ofCode_code (d : Dest) : Dest.ofCode d.code = d := by
  cases d with
  | r n => revert n; decide
  | _ => rfl

@[simp] theorem MemOp.ofCode_code (m : MemOp) : MemOp.ofCode m.code = m := by cases m <;> rfl

@[simp] theorem CarryCtl.ofCode_code (c : CarryCtl) : CarryCtl.ofCode c.code = c := by
  cases c <;> rfl

@[simp] theorem NibSel.ofCode_code (n : NibSel) : NibSel.ofCode n.code = n := by cases n <;> rfl

@[simp] theorem PCtl.ofCode_code (p : PCtl) : PCtl.ofCode p.code = p := by cases p <;> rfl

@[simp] theorem CmCtl.ofCode_code (c : CmCtl) : CmCtl.ofCode c.code = c := by cases c <;> rfl

theorem ASrc.code_ofCode {n : Nat} (h : n < 16) : (ASrc.ofCode n).code = n := by
  revert n; decide

theorem BSrc.code_ofCode {n : Nat} (h : n < 16) : (BSrc.ofCode n).code = n := by
  revert n; decide

theorem Dest.code_ofCode {n : Nat} (h : n < 16) : (Dest.ofCode n).code = n := by
  revert n; decide

theorem MemOp.code_ofCode {n : Nat} (h : n < 4) : (MemOp.ofCode n).code = n := by
  revert n; decide

theorem CarryCtl.code_ofCode {n : Nat} (h : n < 4) : (CarryCtl.ofCode n).code = n := by
  revert n; decide

theorem NibSel.code_ofCode {n : Nat} (h : n < 4) : (NibSel.ofCode n).code = n := by
  revert n; decide

theorem PCtl.code_ofCode {n : Nat} (h : n < 8) : (PCtl.ofCode n).code = n := by
  revert n; decide

theorem CmCtl.code_ofCode {n : Nat} (h : n < 4) : (CmCtl.ofCode n).code = n := by
  revert n; decide

/-- Only the constant 0 has B code 1111 (R102, R116). -/
theorem BSrc.isRegister_iff (b : BSrc) : b.isRegister = true ↔ b.code ≠ 15 := by
  cases b with
  | r n => revert n; decide
  | _ => decide

theorem BSrc.eq_zero_of_not_isRegister {b : BSrc} (h : b.isRegister = false) : b = .zero := by
  cases b <;> simp_all [BSrc.isRegister]

theorem Dest.isLegal_iff (d : Dest) : d.isLegal = true ↔ d.code ≠ 10 ∧ d.code ≠ 11 := by
  cases d with
  | r n => revert n; decide
  | _ => decide

theorem CarryCtl.isPermittedLogical_iff (c : CarryCtl) :
    c.isPermittedLogical = true ↔ c.code ≠ 1 := by cases c <;> decide

/-! ## Fields -/

theorem field_lt (w : CWord) (lo n : Nat) : field w lo n < 2 ^ n :=
  Nat.mod_lt _ (Nat.two_pow_pos n)

/-- A field is the number its slice of bits stands for. -/
theorem field_eq_extract (w : CWord) (lo n : Nat) : field w lo n = (w.extractLsb' lo n).toNat := by
  simp [field, Nat.shiftRight_eq_div_pow]

/-- A field of one bit. -/
theorem field_one (w : CWord) (i : Nat) : field w i 1 = (w.getLsbD i).toNat := by
  simp only [field, BitVec.getLsbD, Nat.testBit, Nat.shiftRight_eq_div_pow, Nat.one_and_eq_mod_two,
    Nat.pow_one]
  rcases Nat.mod_two_eq_zero_or_one (w.toNat / 2 ^ i) with h | h <;> simp [h]

/-- A field below bit 23 depends on bits 22 to 0 alone. -/
theorem field_mod {w : CWord} {lo n : Nat} (h : lo + n ≤ 23) :
    field w lo n = w.toNat % 2 ^ 23 / 2 ^ lo % 2 ^ n := by
  have e : 23 = lo + (23 - lo) := by omega
  rw [field, e, Nat.pow_add, Nat.mod_mul_right_div_self, Nat.mod_mod_of_dvd]
  exact Nat.pow_dvd_pow 2 (by omega)

/-- Decoding reads bits 22 to 0 only (R91). -/
theorem decode_congr {w v : CWord} (h : w.toNat % 2 ^ 23 = v.toNat % 2 ^ 23) :
    decode w = decode v := by
  have e : ∀ lo n, lo + n ≤ 23 → field w lo n = field v lo n := fun lo n hn => by
    rw [field_mod hn, field_mod hn, h]
  have branch : decodeBranch w = decodeBranch v := by
    unfold decodeBranch decodeJump
    rw [e 8 10 (by omega), e 4 4 (by omega), e 0 4 (by omega), e 18 4 (by omega),
      e 0 2 (by omega), e 2 6 (by omega)]
  have imm : decodeImm w = decodeImm v := by
    unfold decodeImm decodeImmLegal
    rw [e 12 2 (by omega), e 8 4 (by omega), e 14 4 (by omega), e 4 4 (by omega),
      e 0 4 (by omega), e 18 3 (by omega), e 16 2 (by omega), e 14 1 (by omega), e 15 1 (by omega)]
  have reg : decodeRegAlu w = decodeRegAlu v := by
    unfold decodeRegAlu
    rw [e 18 3 (by omega), e 14 2 (by omega), e 12 2 (by omega), e 8 4 (by omega),
      e 4 4 (by omega), e 0 4 (by omega), e 17 1 (by omega)]
  have aux : decodeAux w = decodeAux v := by
    unfold decodeAux
    rw [e 14 1 (by omega), e 9 2 (by omega), e 12 2 (by omega), e 11 1 (by omega),
      e 4 5 (by omega), e 0 4 (by omega), e 15 1 (by omega), e 17 3 (by omega)]
  have io : decodeIo w = decodeIo v := by
    unfold decodeIo decodeCio
    rw [e 19 1 (by omega), e 12 2 (by omega), e 17 2 (by omega), e 14 2 (by omega),
      e 0 12 (by omega), e 4 3 (by omega), e 0 2 (by omega), e 2 2 (by omega), e 11 1 (by omega),
      e 10 1 (by omega), e 9 1 (by omega), e 8 1 (by omega), e 7 1 (by omega)]
  unfold decode
  rw [branch, imm, reg, aux, io, e 22 1 (by omega), e 21 1 (by omega), e 16 1 (by omega),
    e 20 1 (by omega)]

/-! ## The parity bit -/

theorem ones_zero (n : Nat) : ones n 0 = 0 := by
  induction n with
  | zero => rfl
  | succ n ih => simp [ones, ih]

/-- The bits of a number below 2 ^ n, and one more bit above them. -/
theorem ones_append (n v b : Nat) (hv : v < 2 ^ n) (hb : b < 2) :
    ones (n + 1) (v + b * 2 ^ n) = ones n v + b := by
  induction n generalizing v with
  | zero =>
    obtain rfl : v = 0 := by simpa using hv
    simp only [ones]
    omega
  | succ n ih =>
    have m : b * 2 ^ (n + 1) = 2 * (b * 2 ^ n) := by rw [Nat.pow_succ]; ring
    have e : (v + b * 2 ^ (n + 1)) % 2 = v % 2 := by omega
    have e' : (v + b * 2 ^ (n + 1)) / 2 = v / 2 + b * 2 ^ n := by omega
    rw [ones, e, e', ih (v / 2) (by rw [Nat.pow_succ] at hv; omega), ones]
    omega

/-- Bits above the lowest `n` do not count. -/
theorem ones_mod (n v : Nat) : ones n (v % 2 ^ n) = ones n v := by
  induction n generalizing v with
  | zero => rfl
  | succ n ih =>
    have e : v % 2 ^ (n + 1) % 2 = v % 2 := by
      rw [Nat.mod_mod_of_dvd]; exact ⟨2 ^ n, by rw [Nat.pow_succ, Nat.mul_comm]⟩
    have e' : v % 2 ^ (n + 1) / 2 = v / 2 % 2 ^ n := by
      rw [Nat.pow_succ, Nat.mul_comm, Nat.mod_mul_right_div_self]
    rw [ones, ones, e, e', ih]

theorem withParity_toNat (body : Nat) : (withParity body).toNat =
    body % 2 ^ 23 + (1 - ones 23 (body % 2 ^ 23) % 2) * 2 ^ 23 := by
  unfold withParity
  rw [BitVec.toNat_ofNat]
  have h := Nat.mod_lt body (Nat.two_pow_pos 23)
  have h2 : 1 - ones 23 (body % 2 ^ 23) % 2 < 2 := by omega
  generalize 1 - ones 23 (body % 2 ^ 23) % 2 = b at *
  omega

/-- Bits 22 to 0 of an assembled word are the body. -/
theorem withParity_mod (body : Nat) : (withParity body).toNat % 2 ^ 23 = body % 2 ^ 23 := by
  rw [withParity_toNat]
  omega

/-- An assembled word has odd parity (R91). -/
theorem oddParity_withParity (body : Nat) : oddParity (withParity body) = true := by
  have h := ones_append 23 (body % 2 ^ 23) (1 - ones 23 (body % 2 ^ 23) % 2)
    (Nat.mod_lt _ (Nat.two_pow_pos 23)) (by omega)
  rw [oddParity, withParity_toNat, h]
  simp only [beq_iff_eq]
  omega

/-- A word of odd parity is the one assembled from its bits 22 to 0. -/
theorem withParity_of_odd {w : CWord} {body : Nat} (h : oddParity w = true)
    (hb : w.toNat % 2 ^ 23 = body % 2 ^ 23) : withParity body = w := by
  apply BitVec.eq_of_toNat_eq
  rw [withParity_toNat, ← hb]
  have hw := w.isLt
  have e : w.toNat = w.toNat % 2 ^ 23 + w.toNat / 2 ^ 23 * 2 ^ 23 := by omega
  have h1 := ones_append 23 (w.toNat % 2 ^ 23) (w.toNat / 2 ^ 23)
    (Nat.mod_lt _ (Nat.two_pow_pos 23)) (by omega)
  rw [← e] at h1
  simp only [oddParity, beq_iff_eq, h1] at h
  have : w.toNat / 2 ^ 23 < 2 := by omega
  omega

/-- A field of an assembled word below bit 23 is that field of the body. -/
theorem field_withParity {body lo n : Nat} (h : lo + n ≤ 23) :
    field (withParity body) lo n = body / 2 ^ lo % 2 ^ n := by
  rw [field_mod h, withParity_mod]
  have e : 23 = lo + (23 - lo) := by omega
  rw [e, Nat.pow_add, Nat.mod_mul_right_div_self, Nat.mod_mod_of_dvd]
  exact Nat.pow_dvd_pow 2 (by omega)

end Sys2Proof
end

