-- ==== Sys2Proof/Laws/Memory.lean ====
section
/-! SUPPORT. The laws of a memory in canonical form: a read after a write, and every write keeps the
form. -/

namespace Sys2Proof.Machine

variable {n : Nat}

@[simp] theorem memory_get_nil (k : Nat) : Memory.get ([] : Memory n) k = Memory.unlisted n := rfl

/-- A memory whose addresses are all above `k` reads as unlisted at `k`. -/
theorem memory_get_of_lt {m : Memory n} {k : Nat} (h : ∀ c ∈ m, k < c.1) :
    Memory.get m k = Memory.unlisted n := by
  induction m with
  | nil => rfl
  | cons c rest ih =>
    obtain ⟨a, v⟩ := c
    have h1 : k < a := h (a, v) (by simp)
    simp only [Memory.get]
    rw [if_neg (by omega)]
    exact ih fun c hc => h c (List.mem_cons_of_mem _ hc)

/-- What the front entry and the rest read, for the front entry made by `consCell`. -/
theorem memory_get_consCell {m : Memory n} {k j : Nat} (v : BitVec n) (h : ∀ c ∈ m, k < c.1) :
    Memory.get (Memory.consCell k v m) j = if k = j then v else Memory.get m j := by
  unfold Memory.consCell
  split
  · rename_i hv
    split
    · subst hv; rename_i hk; subst hk; exact memory_get_of_lt h
    · rfl
  · simp [Memory.get]

theorem memory_wf_tail {c : Nat × BitVec n} {m : Memory n} (h : Memory.wf (c :: m)) :
    Memory.wf m := ⟨(List.pairwise_cons.mp h.1).2, fun d hd => h.2 d (List.mem_cons_of_mem _ hd)⟩

theorem memory_wf_head_lt {a : Nat} {v : BitVec n} {m : Memory n} (h : Memory.wf ((a, v) :: m)) :
    ∀ c ∈ m, a < c.1 := fun c hc => (List.pairwise_cons.mp h.1).1 c hc

/-- A read after a write: the value written at its own address, the old value at every other. -/
theorem memory_get_set {m : Memory n} (hm : Memory.wf m) (k j : Nat) (v : BitVec n) :
    Memory.get (Memory.set m k v) j = if k = j then v else Memory.get m j := by
  induction m with
  | nil => simpa [Memory.set] using memory_get_consCell (m := []) v (by simp)
  | cons c rest ih =>
    obtain ⟨a, u⟩ := c
    have hlt := memory_wf_head_lt hm
    simp only [Memory.set]
    split
    · rename_i hka
      refine memory_get_consCell v fun c hc => ?_
      rcases List.mem_cons.mp hc with rfl | hc
      · exact hka
      · have := hlt c hc; omega
    · split
      · rename_i _ hka
        subst hka
        rw [memory_get_consCell v hlt]
        by_cases hj : k = j <;> simp [Memory.get, hj]
      · rename_i h1 h2
        simp only [Memory.get]
        rw [ih (memory_wf_tail hm)]
        by_cases hj : k = j
        · subst hj; simp [Ne.symm h2]
        · simp [hj]

/-- A write leaves every other address alone, whatever the list. -/
theorem memory_get_set_ne (m : Memory n) {k j : Nat} (v : BitVec n) (h : k ≠ j) :
    Memory.get (Memory.set m k v) j = Memory.get m j := by
  have cons : ∀ l : Memory n, Memory.get (Memory.consCell k v l) j = Memory.get l j := by
    intro l
    unfold Memory.consCell
    split
    · rfl
    · simp [Memory.get, h]
  induction m with
  | nil => exact cons []
  | cons c rest ih =>
    obtain ⟨a, u⟩ := c
    simp only [Memory.set]
    split
    · exact cons _
    · split
      · rename_i _ hka
        subst hka
        rw [cons]
        simp [Memory.get, h]
      · simp only [Memory.get, ih]

/-- An entry after a write is the written one, or was there before. -/
theorem memory_mem_set {m : Memory n} {k : Nat} {v : BitVec n} {c : Nat × BitVec n}
    (h : c ∈ Memory.set m k v) : c = (k, v) ∨ c ∈ m := by
  have cons : ∀ {l : Memory n}, c ∈ Memory.consCell k v l → c = (k, v) ∨ c ∈ l := by
    intro l hl
    unfold Memory.consCell at hl
    split at hl
    · exact .inr hl
    · exact List.mem_cons.mp hl
  induction m with
  | nil => exact cons h
  | cons d rest ih =>
    obtain ⟨a, u⟩ := d
    simp only [Memory.set] at h
    split at h
    · exact cons h
    · split at h
      · exact (cons h).imp id (List.mem_cons_of_mem _)
      · rcases List.mem_cons.mp h with rfl | h
        · exact .inr (by simp)
        · exact (ih h).imp id (List.mem_cons_of_mem _)

theorem memory_wf_consCell {m : Memory n} {k : Nat} (v : BitVec n) (hm : Memory.wf m)
    (h : ∀ c ∈ m, k < c.1) : Memory.wf (Memory.consCell k v m) := by
  unfold Memory.consCell
  split
  · exact hm
  · rename_i hv
    refine ⟨List.pairwise_cons.mpr ⟨h, hm.1⟩, fun c hc => ?_⟩
    rcases List.mem_cons.mp hc with rfl | hc
    · exact hv
    · exact hm.2 c hc

/-- A write keeps the canonical form. -/
theorem memory_wf_set {m : Memory n} (hm : Memory.wf m) (k : Nat) (v : BitVec n) :
    Memory.wf (Memory.set m k v) := by
  induction m with
  | nil => exact memory_wf_consCell v hm (by simp)
  | cons c rest ih =>
    obtain ⟨a, u⟩ := c
    have hlt := memory_wf_head_lt hm
    simp only [Memory.set]
    split
    · rename_i hka
      refine memory_wf_consCell v hm fun c hc => ?_
      rcases List.mem_cons.mp hc with rfl | hc
      · exact hka
      · have := hlt c hc; omega
    · split
      · rename_i _ hka
        subst hka
        exact memory_wf_consCell v (memory_wf_tail hm) hlt
      · rename_i h1 h2
        have hr := ih (memory_wf_tail hm)
        refine ⟨List.pairwise_cons.mpr ⟨fun c hc => ?_, hr.1⟩, fun c hc => ?_⟩
        · rcases memory_mem_set hc with rfl | hc
          · show a < k; omega
          · exact hlt c hc
        · rcases List.mem_cons.mp hc with rfl | hc
          · exact hm.2 _ (by simp)
          · exact hr.2 c hc

/-- Canonical memories that read the same everywhere are equal. -/
theorem memory_ext {m m' : Memory n} (hm : Memory.wf m) (hm' : Memory.wf m')
    (h : ∀ k, Memory.get m k = Memory.get m' k) : m = m' := by
  induction m generalizing m' with
  | nil =>
    cases m' with
    | nil => rfl
    | cons c' r' =>
      have := h c'.1
      exact absurd (by simpa [Memory.get] using this.symm) (hm'.2 c' (by simp))
  | cons c r ih =>
    obtain ⟨a, v⟩ := c
    have hv : v ≠ Memory.unlisted n := hm.2 (a, v) (by simp)
    have hlt := memory_wf_head_lt hm
    cases m' with
    | nil => exact absurd (by simpa [Memory.get] using h a) hv
    | cons c' r' =>
      obtain ⟨a', v'⟩ := c'
      have hv' : v' ≠ Memory.unlisted n := hm'.2 (a', v') (by simp)
      have hlt' := memory_wf_head_lt hm'
      have haa : a = a' := by
        rcases Nat.lt_trichotomy a a' with hl | he | hl
        · have h1 := h a
          rw [show Memory.get ((a', v') :: r') a = Memory.unlisted n from
            memory_get_of_lt fun c hc => by
              rcases List.mem_cons.mp hc with rfl | hc
              · exact hl
              · have := hlt' c hc; omega] at h1
          exact absurd (by simpa [Memory.get] using h1) hv
        · exact he
        · have h1 := h a'
          rw [show Memory.get ((a, v) :: r) a' = Memory.unlisted n from
            memory_get_of_lt fun c hc => by
              rcases List.mem_cons.mp hc with rfl | hc
              · exact hl
              · have := hlt c hc; omega] at h1
          exact absurd (by simpa [Memory.get] using h1.symm) hv'
      subst haa
      have hvv : v = v' := by simpa [Memory.get] using h a
      subst hvv
      congr 1
      refine ih (memory_wf_tail hm) (memory_wf_tail hm') fun k => ?_
      by_cases hk : a = k
      · subst hk; rw [memory_get_of_lt hlt, memory_get_of_lt hlt']
      · simpa [Memory.get, hk] using h k

end Sys2Proof.Machine
end

