-- ==== Sys2Proof/Laws/State.lean ====
section
/-! SUPPORT. One lemma per field and per view of the state, for every named update, true by rfl. -/

namespace Sys2Proof.Machine

variable (s : State)

/-! ### setR -/

@[simp] theorem setR_r (n : RegNum) (v : Byte) : (s.setR n v).r = s.r.set n v := rfl
@[simp] theorem setR_ph (n : RegNum) (v : Byte) : (s.setR n v).ph = s.ph := rfl
@[simp] theorem setR_pl (n : RegNum) (v : Byte) : (s.setR n v).pl = s.pl := rfl
@[simp] theorem setR_ch (n : RegNum) (v : Byte) : (s.setR n v).ch = s.ch := rfl
@[simp] theorem setR_cl (n : RegNum) (v : Byte) : (s.setR n v).cl = s.cl := rfl
@[simp] theorem setR_dum (n : RegNum) (v : Byte) : (s.setR n v).dum = s.dum := rfl
@[simp] theorem setR_k (n : RegNum) (v : Byte) : (s.setR n v).k = s.k := rfl
@[simp] theorem setR_ab (n : RegNum) (v : Byte) : (s.setR n v).ab = s.ab := rfl
@[simp] theorem setR_sl (n : RegNum) (v : Byte) : (s.setR n v).sl = s.sl := rfl
@[simp] theorem setR_sh (n : RegNum) (v : Byte) : (s.setR n v).sh = s.sh := rfl
@[simp] theorem setR_ar (n : RegNum) (v : Byte) : (s.setR n v).ar = s.ar := rfl
@[simp] theorem setR_pc (n : RegNum) (v : Byte) : (s.setR n v).pc = s.pc := rfl
@[simp] theorem setR_stack (n : RegNum) (v : Byte) : (s.setR n v).stack = s.stack := rfl
@[simp] theorem setR_dm (n : RegNum) (v : Byte) : (s.setR n v).dm = s.dm := rfl
@[simp] theorem setR_cm (n : RegNum) (v : Byte) : (s.setR n v).cm = s.cm := rfl
@[simp] theorem setR_io (n : RegNum) (v : Byte) : (s.setR n v).io = s.io := rfl
@[simp] theorem setR_env (n : RegNum) (v : Byte) : (s.setR n v).env = s.env := rfl
@[simp] theorem setR_free (n : RegNum) (v : Byte) : (s.setR n v).free = s.free := rfl
@[simp] theorem setR_aux (n : RegNum) (v : Byte) (m : ArNum) : (s.setR n v).aux m = s.aux m := rfl
@[simp] theorem setR_phpl (n : RegNum) (v : Byte) : (s.setR n v).phpl = s.phpl := rfl
@[simp] theorem setR_carry (n : RegNum) (v : Byte) : (s.setR n v).carry = s.carry := rfl
@[simp] theorem setR_ibs (n : RegNum) (v : Byte) : (s.setR n v).ibs = s.ibs := rfl
@[simp] theorem setR_pedm (n : RegNum) (v : Byte) : (s.setR n v).pedm = s.pedm := rfl
@[simp] theorem setR_dmpi (n : RegNum) (v : Byte) : (s.setR n v).dmpi = s.dmpi := rfl
@[simp] theorem setR_dmRead (n : RegNum) (v : Byte) (w : Byte) (a : Addr) : (s.setR n v).dmRead w a = s.dmRead w a := rfl
@[simp] theorem setR_cmRead (n : RegNum) (v : Byte) (a : Addr) : (s.setR n v).cmRead a = s.cmRead a := rfl
@[simp] theorem setR_nextPc (n : RegNum) (v : Byte) : (s.setR n v).nextPc = s.nextPc := rfl
@[simp] theorem setR_hasRoom (n : RegNum) (v : Byte) : (s.setR n v).hasRoom = s.hasRoom := rfl

/-! ### setPh -/

@[simp] theorem setPh_r (v : Byte) : (s.setPh v).r = s.r := rfl
@[simp] theorem setPh_ph (v : Byte) : (s.setPh v).ph = v := rfl
@[simp] theorem setPh_pl (v : Byte) : (s.setPh v).pl = s.pl := rfl
@[simp] theorem setPh_ch (v : Byte) : (s.setPh v).ch = s.ch := rfl
@[simp] theorem setPh_cl (v : Byte) : (s.setPh v).cl = s.cl := rfl
@[simp] theorem setPh_dum (v : Byte) : (s.setPh v).dum = s.dum := rfl
@[simp] theorem setPh_k (v : Byte) : (s.setPh v).k = s.k := rfl
@[simp] theorem setPh_ab (v : Byte) : (s.setPh v).ab = s.ab := rfl
@[simp] theorem setPh_sl (v : Byte) : (s.setPh v).sl = s.sl := rfl
@[simp] theorem setPh_sh (v : Byte) : (s.setPh v).sh = s.sh := rfl
@[simp] theorem setPh_ar (v : Byte) : (s.setPh v).ar = s.ar := rfl
@[simp] theorem setPh_pc (v : Byte) : (s.setPh v).pc = s.pc := rfl
@[simp] theorem setPh_stack (v : Byte) : (s.setPh v).stack = s.stack := rfl
@[simp] theorem setPh_dm (v : Byte) : (s.setPh v).dm = s.dm := rfl
@[simp] theorem setPh_cm (v : Byte) : (s.setPh v).cm = s.cm := rfl
@[simp] theorem setPh_io (v : Byte) : (s.setPh v).io = s.io := rfl
@[simp] theorem setPh_env (v : Byte) : (s.setPh v).env = s.env := rfl
@[simp] theorem setPh_free (v : Byte) : (s.setPh v).free = s.free := rfl
@[simp] theorem setPh_x (v : Byte) (m : RegNum) : (s.setPh v).x m = s.x m := rfl
@[simp] theorem setPh_aux (v : Byte) (m : ArNum) : (s.setPh v).aux m = s.aux m := rfl
@[simp] theorem setPh_carry (v : Byte) : (s.setPh v).carry = s.carry := rfl
@[simp] theorem setPh_ibs (v : Byte) : (s.setPh v).ibs = s.ibs := rfl
@[simp] theorem setPh_pedm (v : Byte) : (s.setPh v).pedm = s.pedm := rfl
@[simp] theorem setPh_dmpi (v : Byte) : (s.setPh v).dmpi = s.dmpi := rfl
@[simp] theorem setPh_dmRead (v : Byte) (w : Byte) (a : Addr) : (s.setPh v).dmRead w a = s.dmRead w a := rfl
@[simp] theorem setPh_cmRead (v : Byte) (a : Addr) : (s.setPh v).cmRead a = s.cmRead a := rfl
@[simp] theorem setPh_nextPc (v : Byte) : (s.setPh v).nextPc = s.nextPc := rfl
@[simp] theorem setPh_hasRoom (v : Byte) : (s.setPh v).hasRoom = s.hasRoom := rfl

/-! ### setPl -/

@[simp] theorem setPl_r (v : Byte) : (s.setPl v).r = s.r := rfl
@[simp] theorem setPl_ph (v : Byte) : (s.setPl v).ph = s.ph := rfl
@[simp] theorem setPl_pl (v : Byte) : (s.setPl v).pl = v := rfl
@[simp] theorem setPl_ch (v : Byte) : (s.setPl v).ch = s.ch := rfl
@[simp] theorem setPl_cl (v : Byte) : (s.setPl v).cl = s.cl := rfl
@[simp] theorem setPl_dum (v : Byte) : (s.setPl v).dum = s.dum := rfl
@[simp] theorem setPl_k (v : Byte) : (s.setPl v).k = s.k := rfl
@[simp] theorem setPl_ab (v : Byte) : (s.setPl v).ab = s.ab := rfl
@[simp] theorem setPl_sl (v : Byte) : (s.setPl v).sl = s.sl := rfl
@[simp] theorem setPl_sh (v : Byte) : (s.setPl v).sh = s.sh := rfl
@[simp] theorem setPl_ar (v : Byte) : (s.setPl v).ar = s.ar := rfl
@[simp] theorem setPl_pc (v : Byte) : (s.setPl v).pc = s.pc := rfl
@[simp] theorem setPl_stack (v : Byte) : (s.setPl v).stack = s.stack := rfl
@[simp] theorem setPl_dm (v : Byte) : (s.setPl v).dm = s.dm := rfl
@[simp] theorem setPl_cm (v : Byte) : (s.setPl v).cm = s.cm := rfl
@[simp] theorem setPl_io (v : Byte) : (s.setPl v).io = s.io := rfl
@[simp] theorem setPl_env (v : Byte) : (s.setPl v).env = s.env := rfl
@[simp] theorem setPl_free (v : Byte) : (s.setPl v).free = s.free := rfl
@[simp] theorem setPl_x (v : Byte) (m : RegNum) : (s.setPl v).x m = s.x m := rfl
@[simp] theorem setPl_aux (v : Byte) (m : ArNum) : (s.setPl v).aux m = s.aux m := rfl
@[simp] theorem setPl_carry (v : Byte) : (s.setPl v).carry = s.carry := rfl
@[simp] theorem setPl_ibs (v : Byte) : (s.setPl v).ibs = s.ibs := rfl
@[simp] theorem setPl_pedm (v : Byte) : (s.setPl v).pedm = s.pedm := rfl
@[simp] theorem setPl_dmpi (v : Byte) : (s.setPl v).dmpi = s.dmpi := rfl
@[simp] theorem setPl_dmRead (v : Byte) (w : Byte) (a : Addr) : (s.setPl v).dmRead w a = s.dmRead w a := rfl
@[simp] theorem setPl_cmRead (v : Byte) (a : Addr) : (s.setPl v).cmRead a = s.cmRead a := rfl
@[simp] theorem setPl_nextPc (v : Byte) : (s.setPl v).nextPc = s.nextPc := rfl
@[simp] theorem setPl_hasRoom (v : Byte) : (s.setPl v).hasRoom = s.hasRoom := rfl

/-! ### setChCl -/

@[simp] theorem setChCl_r (c l : Byte) : (s.setChCl c l).r = s.r := rfl
@[simp] theorem setChCl_ph (c l : Byte) : (s.setChCl c l).ph = s.ph := rfl
@[simp] theorem setChCl_pl (c l : Byte) : (s.setChCl c l).pl = s.pl := rfl
@[simp] theorem setChCl_ch (c l : Byte) : (s.setChCl c l).ch = c := rfl
@[simp] theorem setChCl_cl (c l : Byte) : (s.setChCl c l).cl = l := rfl
@[simp] theorem setChCl_dum (c l : Byte) : (s.setChCl c l).dum = s.dum := rfl
@[simp] theorem setChCl_k (c l : Byte) : (s.setChCl c l).k = s.k := rfl
@[simp] theorem setChCl_ab (c l : Byte) : (s.setChCl c l).ab = s.ab := rfl
@[simp] theorem setChCl_sl (c l : Byte) : (s.setChCl c l).sl = s.sl := rfl
@[simp] theorem setChCl_sh (c l : Byte) : (s.setChCl c l).sh = s.sh := rfl
@[simp] theorem setChCl_ar (c l : Byte) : (s.setChCl c l).ar = s.ar := rfl
@[simp] theorem setChCl_pc (c l : Byte) : (s.setChCl c l).pc = s.pc := rfl
@[simp] theorem setChCl_stack (c l : Byte) : (s.setChCl c l).stack = s.stack := rfl
@[simp] theorem setChCl_dm (c l : Byte) : (s.setChCl c l).dm = s.dm := rfl
@[simp] theorem setChCl_cm (c l : Byte) : (s.setChCl c l).cm = s.cm := rfl
@[simp] theorem setChCl_io (c l : Byte) : (s.setChCl c l).io = s.io := rfl
@[simp] theorem setChCl_env (c l : Byte) : (s.setChCl c l).env = s.env := rfl
@[simp] theorem setChCl_free (c l : Byte) : (s.setChCl c l).free = s.free := rfl
@[simp] theorem setChCl_x (c l : Byte) (m : RegNum) : (s.setChCl c l).x m = s.x m := rfl
@[simp] theorem setChCl_aux (c l : Byte) (m : ArNum) : (s.setChCl c l).aux m = s.aux m := rfl
@[simp] theorem setChCl_phpl (c l : Byte) : (s.setChCl c l).phpl = s.phpl := rfl
@[simp] theorem setChCl_carry (c l : Byte) : (s.setChCl c l).carry = s.carry := rfl
@[simp] theorem setChCl_ibs (c l : Byte) : (s.setChCl c l).ibs = s.ibs := rfl
@[simp] theorem setChCl_pedm (c l : Byte) : (s.setChCl c l).pedm = s.pedm := rfl
@[simp] theorem setChCl_dmpi (c l : Byte) : (s.setChCl c l).dmpi = s.dmpi := rfl
@[simp] theorem setChCl_dmRead (c l : Byte) (w : Byte) (a : Addr) : (s.setChCl c l).dmRead w a = s.dmRead w a := rfl
@[simp] theorem setChCl_cmRead (c l : Byte) (a : Addr) : (s.setChCl c l).cmRead a = s.cmRead a := rfl
@[simp] theorem setChCl_nextPc (c l : Byte) : (s.setChCl c l).nextPc = s.nextPc := rfl
@[simp] theorem setChCl_hasRoom (c l : Byte) : (s.setChCl c l).hasRoom = s.hasRoom := rfl

/-! ### setDum -/

@[simp] theorem setDum_r (v : Byte) : (s.setDum v).r = s.r := rfl
@[simp] theorem setDum_ph (v : Byte) : (s.setDum v).ph = s.ph := rfl
@[simp] theorem setDum_pl (v : Byte) : (s.setDum v).pl = s.pl := rfl
@[simp] theorem setDum_ch (v : Byte) : (s.setDum v).ch = s.ch := rfl
@[simp] theorem setDum_cl (v : Byte) : (s.setDum v).cl = s.cl := rfl
@[simp] theorem setDum_dum (v : Byte) : (s.setDum v).dum = v := rfl
@[simp] theorem setDum_k (v : Byte) : (s.setDum v).k = s.k := rfl
@[simp] theorem setDum_ab (v : Byte) : (s.setDum v).ab = s.ab := rfl
@[simp] theorem setDum_sl (v : Byte) : (s.setDum v).sl = s.sl := rfl
@[simp] theorem setDum_sh (v : Byte) : (s.setDum v).sh = s.sh := rfl
@[simp] theorem setDum_ar (v : Byte) : (s.setDum v).ar = s.ar := rfl
@[simp] theorem setDum_pc (v : Byte) : (s.setDum v).pc = s.pc := rfl
@[simp] theorem setDum_stack (v : Byte) : (s.setDum v).stack = s.stack := rfl
@[simp] theorem setDum_dm (v : Byte) : (s.setDum v).dm = s.dm := rfl
@[simp] theorem setDum_cm (v : Byte) : (s.setDum v).cm = s.cm := rfl
@[simp] theorem setDum_io (v : Byte) : (s.setDum v).io = s.io := rfl
@[simp] theorem setDum_env (v : Byte) : (s.setDum v).env = s.env := rfl
@[simp] theorem setDum_free (v : Byte) : (s.setDum v).free = s.free := rfl
@[simp] theorem setDum_x (v : Byte) (m : RegNum) : (s.setDum v).x m = s.x m := rfl
@[simp] theorem setDum_aux (v : Byte) (m : ArNum) : (s.setDum v).aux m = s.aux m := rfl
@[simp] theorem setDum_phpl (v : Byte) : (s.setDum v).phpl = s.phpl := rfl
@[simp] theorem setDum_carry (v : Byte) : (s.setDum v).carry = s.carry := rfl
@[simp] theorem setDum_ibs (v : Byte) : (s.setDum v).ibs = s.ibs := rfl
@[simp] theorem setDum_pedm (v : Byte) : (s.setDum v).pedm = s.pedm := rfl
@[simp] theorem setDum_dmpi (v : Byte) : (s.setDum v).dmpi = s.dmpi := rfl
@[simp] theorem setDum_dmRead (v : Byte) (w : Byte) (a : Addr) : (s.setDum v).dmRead w a = s.dmRead w a := rfl
@[simp] theorem setDum_cmRead (v : Byte) (a : Addr) : (s.setDum v).cmRead a = s.cmRead a := rfl
@[simp] theorem setDum_nextPc (v : Byte) : (s.setDum v).nextPc = s.nextPc := rfl
@[simp] theorem setDum_hasRoom (v : Byte) : (s.setDum v).hasRoom = s.hasRoom := rfl

/-! ### setK -/

@[simp] theorem setK_r (v : Byte) : (s.setK v).r = s.r := rfl
@[simp] theorem setK_ph (v : Byte) : (s.setK v).ph = s.ph := rfl
@[simp] theorem setK_pl (v : Byte) : (s.setK v).pl = s.pl := rfl
@[simp] theorem setK_ch (v : Byte) : (s.setK v).ch = s.ch := rfl
@[simp] theorem setK_cl (v : Byte) : (s.setK v).cl = s.cl := rfl
@[simp] theorem setK_dum (v : Byte) : (s.setK v).dum = s.dum := rfl
@[simp] theorem setK_k (v : Byte) : (s.setK v).k = v := rfl
@[simp] theorem setK_ab (v : Byte) : (s.setK v).ab = s.ab := rfl
@[simp] theorem setK_sl (v : Byte) : (s.setK v).sl = s.sl := rfl
@[simp] theorem setK_sh (v : Byte) : (s.setK v).sh = s.sh := rfl
@[simp] theorem setK_ar (v : Byte) : (s.setK v).ar = s.ar := rfl
@[simp] theorem setK_pc (v : Byte) : (s.setK v).pc = s.pc := rfl
@[simp] theorem setK_stack (v : Byte) : (s.setK v).stack = s.stack := rfl
@[simp] theorem setK_dm (v : Byte) : (s.setK v).dm = s.dm := rfl
@[simp] theorem setK_cm (v : Byte) : (s.setK v).cm = s.cm := rfl
@[simp] theorem setK_io (v : Byte) : (s.setK v).io = s.io := rfl
@[simp] theorem setK_env (v : Byte) : (s.setK v).env = s.env := rfl
@[simp] theorem setK_free (v : Byte) : (s.setK v).free = s.free := rfl
@[simp] theorem setK_x (v : Byte) (m : RegNum) : (s.setK v).x m = s.x m := rfl
@[simp] theorem setK_aux (v : Byte) (m : ArNum) : (s.setK v).aux m = s.aux m := rfl
@[simp] theorem setK_phpl (v : Byte) : (s.setK v).phpl = s.phpl := rfl
@[simp] theorem setK_carry (v : Byte) : (s.setK v).carry = s.carry := rfl
@[simp] theorem setK_ibs (v : Byte) : (s.setK v).ibs = s.ibs := rfl
@[simp] theorem setK_pedm (v : Byte) : (s.setK v).pedm = s.pedm := rfl
@[simp] theorem setK_dmpi (v : Byte) : (s.setK v).dmpi = s.dmpi := rfl
@[simp] theorem setK_dmRead (v : Byte) (w : Byte) (a : Addr) : (s.setK v).dmRead w a = s.dmRead w a := rfl
@[simp] theorem setK_cmRead (v : Byte) (a : Addr) : (s.setK v).cmRead a = s.cmRead a := rfl
@[simp] theorem setK_nextPc (v : Byte) : (s.setK v).nextPc = s.nextPc := rfl
@[simp] theorem setK_hasRoom (v : Byte) : (s.setK v).hasRoom = s.hasRoom := rfl

/-! ### setAb -/

@[simp] theorem setAb_r (v : Byte) : (s.setAb v).r = s.r := rfl
@[simp] theorem setAb_ph (v : Byte) : (s.setAb v).ph = s.ph := rfl
@[simp] theorem setAb_pl (v : Byte) : (s.setAb v).pl = s.pl := rfl
@[simp] theorem setAb_ch (v : Byte) : (s.setAb v).ch = s.ch := rfl
@[simp] theorem setAb_cl (v : Byte) : (s.setAb v).cl = s.cl := rfl
@[simp] theorem setAb_dum (v : Byte) : (s.setAb v).dum = s.dum := rfl
@[simp] theorem setAb_k (v : Byte) : (s.setAb v).k = s.k := rfl
@[simp] theorem setAb_ab (v : Byte) : (s.setAb v).ab = v := rfl
@[simp] theorem setAb_sl (v : Byte) : (s.setAb v).sl = s.sl := rfl
@[simp] theorem setAb_sh (v : Byte) : (s.setAb v).sh = s.sh := rfl
@[simp] theorem setAb_ar (v : Byte) : (s.setAb v).ar = s.ar := rfl
@[simp] theorem setAb_pc (v : Byte) : (s.setAb v).pc = s.pc := rfl
@[simp] theorem setAb_stack (v : Byte) : (s.setAb v).stack = s.stack := rfl
@[simp] theorem setAb_dm (v : Byte) : (s.setAb v).dm = s.dm := rfl
@[simp] theorem setAb_cm (v : Byte) : (s.setAb v).cm = s.cm := rfl
@[simp] theorem setAb_io (v : Byte) : (s.setAb v).io = s.io := rfl
@[simp] theorem setAb_env (v : Byte) : (s.setAb v).env = s.env := rfl
@[simp] theorem setAb_free (v : Byte) : (s.setAb v).free = s.free := rfl
@[simp] theorem setAb_x (v : Byte) (m : RegNum) : (s.setAb v).x m = s.x m := rfl
@[simp] theorem setAb_aux (v : Byte) (m : ArNum) : (s.setAb v).aux m = s.aux m := rfl
@[simp] theorem setAb_phpl (v : Byte) : (s.setAb v).phpl = s.phpl := rfl
@[simp] theorem setAb_carry (v : Byte) : (s.setAb v).carry = s.carry := rfl
@[simp] theorem setAb_ibs (v : Byte) : (s.setAb v).ibs = s.ibs := rfl
@[simp] theorem setAb_pedm (v : Byte) : (s.setAb v).pedm = s.pedm := rfl
@[simp] theorem setAb_dmpi (v : Byte) : (s.setAb v).dmpi = s.dmpi := rfl
@[simp] theorem setAb_dmRead (v : Byte) (w : Byte) (a : Addr) : (s.setAb v).dmRead w a = s.dmRead w a := rfl
@[simp] theorem setAb_cmRead (v : Byte) (a : Addr) : (s.setAb v).cmRead a = s.cmRead a := rfl
@[simp] theorem setAb_nextPc (v : Byte) : (s.setAb v).nextPc = s.nextPc := rfl
@[simp] theorem setAb_hasRoom (v : Byte) : (s.setAb v).hasRoom = s.hasRoom := rfl

/-! ### setSl -/

@[simp] theorem setSl_r (v : Byte) : (s.setSl v).r = s.r := rfl
@[simp] theorem setSl_ph (v : Byte) : (s.setSl v).ph = s.ph := rfl
@[simp] theorem setSl_pl (v : Byte) : (s.setSl v).pl = s.pl := rfl
@[simp] theorem setSl_ch (v : Byte) : (s.setSl v).ch = s.ch := rfl
@[simp] theorem setSl_cl (v : Byte) : (s.setSl v).cl = s.cl := rfl
@[simp] theorem setSl_dum (v : Byte) : (s.setSl v).dum = s.dum := rfl
@[simp] theorem setSl_k (v : Byte) : (s.setSl v).k = s.k := rfl
@[simp] theorem setSl_ab (v : Byte) : (s.setSl v).ab = s.ab := rfl
@[simp] theorem setSl_sl (v : Byte) : (s.setSl v).sl = v := rfl
@[simp] theorem setSl_sh (v : Byte) : (s.setSl v).sh = s.sh := rfl
@[simp] theorem setSl_ar (v : Byte) : (s.setSl v).ar = s.ar := rfl
@[simp] theorem setSl_pc (v : Byte) : (s.setSl v).pc = s.pc := rfl
@[simp] theorem setSl_stack (v : Byte) : (s.setSl v).stack = s.stack := rfl
@[simp] theorem setSl_dm (v : Byte) : (s.setSl v).dm = s.dm := rfl
@[simp] theorem setSl_cm (v : Byte) : (s.setSl v).cm = s.cm := rfl
@[simp] theorem setSl_io (v : Byte) : (s.setSl v).io = s.io := rfl
@[simp] theorem setSl_env (v : Byte) : (s.setSl v).env = s.env := rfl
@[simp] theorem setSl_free (v : Byte) : (s.setSl v).free = s.free := rfl
@[simp] theorem setSl_x (v : Byte) (m : RegNum) : (s.setSl v).x m = s.x m := rfl
@[simp] theorem setSl_aux (v : Byte) (m : ArNum) : (s.setSl v).aux m = s.aux m := rfl
@[simp] theorem setSl_phpl (v : Byte) : (s.setSl v).phpl = s.phpl := rfl
@[simp] theorem setSl_carry (v : Byte) : (s.setSl v).carry = s.carry := rfl
@[simp] theorem setSl_ibs (v : Byte) : (s.setSl v).ibs = s.ibs := rfl
@[simp] theorem setSl_pedm (v : Byte) : (s.setSl v).pedm = s.pedm := rfl
@[simp] theorem setSl_dmpi (v : Byte) : (s.setSl v).dmpi = s.dmpi := rfl
@[simp] theorem setSl_dmRead (v : Byte) (w : Byte) (a : Addr) : (s.setSl v).dmRead w a = s.dmRead w a := rfl
@[simp] theorem setSl_cmRead (v : Byte) (a : Addr) : (s.setSl v).cmRead a = s.cmRead a := rfl
@[simp] theorem setSl_nextPc (v : Byte) : (s.setSl v).nextPc = s.nextPc := rfl
@[simp] theorem setSl_hasRoom (v : Byte) : (s.setSl v).hasRoom = s.hasRoom := rfl

/-! ### setSh -/

@[simp] theorem setSh_r (v : Byte) : (s.setSh v).r = s.r := rfl
@[simp] theorem setSh_ph (v : Byte) : (s.setSh v).ph = s.ph := rfl
@[simp] theorem setSh_pl (v : Byte) : (s.setSh v).pl = s.pl := rfl
@[simp] theorem setSh_ch (v : Byte) : (s.setSh v).ch = s.ch := rfl
@[simp] theorem setSh_cl (v : Byte) : (s.setSh v).cl = s.cl := rfl
@[simp] theorem setSh_dum (v : Byte) : (s.setSh v).dum = s.dum := rfl
@[simp] theorem setSh_k (v : Byte) : (s.setSh v).k = s.k := rfl
@[simp] theorem setSh_ab (v : Byte) : (s.setSh v).ab = s.ab := rfl
@[simp] theorem setSh_sl (v : Byte) : (s.setSh v).sl = s.sl := rfl
@[simp] theorem setSh_sh (v : Byte) : (s.setSh v).sh = v := rfl
@[simp] theorem setSh_ar (v : Byte) : (s.setSh v).ar = s.ar := rfl
@[simp] theorem setSh_pc (v : Byte) : (s.setSh v).pc = s.pc := rfl
@[simp] theorem setSh_stack (v : Byte) : (s.setSh v).stack = s.stack := rfl
@[simp] theorem setSh_dm (v : Byte) : (s.setSh v).dm = s.dm := rfl
@[simp] theorem setSh_cm (v : Byte) : (s.setSh v).cm = s.cm := rfl
@[simp] theorem setSh_io (v : Byte) : (s.setSh v).io = s.io := rfl
@[simp] theorem setSh_env (v : Byte) : (s.setSh v).env = s.env := rfl
@[simp] theorem setSh_free (v : Byte) : (s.setSh v).free = s.free := rfl
@[simp] theorem setSh_x (v : Byte) (m : RegNum) : (s.setSh v).x m = s.x m := rfl
@[simp] theorem setSh_aux (v : Byte) (m : ArNum) : (s.setSh v).aux m = s.aux m := rfl
@[simp] theorem setSh_phpl (v : Byte) : (s.setSh v).phpl = s.phpl := rfl
@[simp] theorem setSh_dmRead (v : Byte) (w : Byte) (a : Addr) : (s.setSh v).dmRead w a = s.dmRead w a := rfl
@[simp] theorem setSh_cmRead (v : Byte) (a : Addr) : (s.setSh v).cmRead a = s.cmRead a := rfl
@[simp] theorem setSh_nextPc (v : Byte) : (s.setSh v).nextPc = s.nextPc := rfl
@[simp] theorem setSh_hasRoom (v : Byte) : (s.setSh v).hasRoom = s.hasRoom := rfl

/-! ### setAr -/

@[simp] theorem setAr_r (n : ArNum) (v : Addr) : (s.setAr n v).r = s.r := rfl
@[simp] theorem setAr_ph (n : ArNum) (v : Addr) : (s.setAr n v).ph = s.ph := rfl
@[simp] theorem setAr_pl (n : ArNum) (v : Addr) : (s.setAr n v).pl = s.pl := rfl
@[simp] theorem setAr_ch (n : ArNum) (v : Addr) : (s.setAr n v).ch = s.ch := rfl
@[simp] theorem setAr_cl (n : ArNum) (v : Addr) : (s.setAr n v).cl = s.cl := rfl
@[simp] theorem setAr_dum (n : ArNum) (v : Addr) : (s.setAr n v).dum = s.dum := rfl
@[simp] theorem setAr_k (n : ArNum) (v : Addr) : (s.setAr n v).k = s.k := rfl
@[simp] theorem setAr_ab (n : ArNum) (v : Addr) : (s.setAr n v).ab = s.ab := rfl
@[simp] theorem setAr_sl (n : ArNum) (v : Addr) : (s.setAr n v).sl = s.sl := rfl
@[simp] theorem setAr_sh (n : ArNum) (v : Addr) : (s.setAr n v).sh = s.sh := rfl
@[simp] theorem setAr_ar (n : ArNum) (v : Addr) : (s.setAr n v).ar = s.ar.set n v := rfl
@[simp] theorem setAr_pc (n : ArNum) (v : Addr) : (s.setAr n v).pc = s.pc := rfl
@[simp] theorem setAr_stack (n : ArNum) (v : Addr) : (s.setAr n v).stack = s.stack := rfl
@[simp] theorem setAr_dm (n : ArNum) (v : Addr) : (s.setAr n v).dm = s.dm := rfl
@[simp] theorem setAr_cm (n : ArNum) (v : Addr) : (s.setAr n v).cm = s.cm := rfl
@[simp] theorem setAr_io (n : ArNum) (v : Addr) : (s.setAr n v).io = s.io := rfl
@[simp] theorem setAr_env (n : ArNum) (v : Addr) : (s.setAr n v).env = s.env := rfl
@[simp] theorem setAr_free (n : ArNum) (v : Addr) : (s.setAr n v).free = s.free := rfl
@[simp] theorem setAr_x (n : ArNum) (v : Addr) (m : RegNum) : (s.setAr n v).x m = s.x m := rfl
@[simp] theorem setAr_phpl (n : ArNum) (v : Addr) : (s.setAr n v).phpl = s.phpl := rfl
@[simp] theorem setAr_carry (n : ArNum) (v : Addr) : (s.setAr n v).carry = s.carry := rfl
@[simp] theorem setAr_ibs (n : ArNum) (v : Addr) : (s.setAr n v).ibs = s.ibs := rfl
@[simp] theorem setAr_pedm (n : ArNum) (v : Addr) : (s.setAr n v).pedm = s.pedm := rfl
@[simp] theorem setAr_dmpi (n : ArNum) (v : Addr) : (s.setAr n v).dmpi = s.dmpi := rfl
@[simp] theorem setAr_dmRead (n : ArNum) (v : Addr) (w : Byte) (a : Addr) : (s.setAr n v).dmRead w a = s.dmRead w a := rfl
@[simp] theorem setAr_cmRead (n : ArNum) (v : Addr) (a : Addr) : (s.setAr n v).cmRead a = s.cmRead a := rfl
@[simp] theorem setAr_nextPc (n : ArNum) (v : Addr) : (s.setAr n v).nextPc = s.nextPc := rfl
@[simp] theorem setAr_hasRoom (n : ArNum) (v : Addr) : (s.setAr n v).hasRoom = s.hasRoom := rfl

/-! ### setPc -/

@[simp] theorem setPc_r (v : Addr) : (s.setPc v).r = s.r := rfl
@[simp] theorem setPc_ph (v : Addr) : (s.setPc v).ph = s.ph := rfl
@[simp] theorem setPc_pl (v : Addr) : (s.setPc v).pl = s.pl := rfl
@[simp] theorem setPc_ch (v : Addr) : (s.setPc v).ch = s.ch := rfl
@[simp] theorem setPc_cl (v : Addr) : (s.setPc v).cl = s.cl := rfl
@[simp] theorem setPc_dum (v : Addr) : (s.setPc v).dum = s.dum := rfl
@[simp] theorem setPc_k (v : Addr) : (s.setPc v).k = s.k := rfl
@[simp] theorem setPc_ab (v : Addr) : (s.setPc v).ab = s.ab := rfl
@[simp] theorem setPc_sl (v : Addr) : (s.setPc v).sl = s.sl := rfl
@[simp] theorem setPc_sh (v : Addr) : (s.setPc v).sh = s.sh := rfl
@[simp] theorem setPc_ar (v : Addr) : (s.setPc v).ar = s.ar := rfl
@[simp] theorem setPc_pc (v : Addr) : (s.setPc v).pc = v := rfl
@[simp] theorem setPc_stack (v : Addr) : (s.setPc v).stack = s.stack := rfl
@[simp] theorem setPc_dm (v : Addr) : (s.setPc v).dm = s.dm := rfl
@[simp] theorem setPc_cm (v : Addr) : (s.setPc v).cm = s.cm := rfl
@[simp] theorem setPc_io (v : Addr) : (s.setPc v).io = s.io := rfl
@[simp] theorem setPc_env (v : Addr) : (s.setPc v).env = s.env := rfl
@[simp] theorem setPc_free (v : Addr) : (s.setPc v).free = s.free := rfl
@[simp] theorem setPc_x (v : Addr) (m : RegNum) : (s.setPc v).x m = s.x m := rfl
@[simp] theorem setPc_aux (v : Addr) (m : ArNum) : (s.setPc v).aux m = s.aux m := rfl
@[simp] theorem setPc_phpl (v : Addr) : (s.setPc v).phpl = s.phpl := rfl
@[simp] theorem setPc_carry (v : Addr) : (s.setPc v).carry = s.carry := rfl
@[simp] theorem setPc_ibs (v : Addr) : (s.setPc v).ibs = s.ibs := rfl
@[simp] theorem setPc_pedm (v : Addr) : (s.setPc v).pedm = s.pedm := rfl
@[simp] theorem setPc_dmpi (v : Addr) : (s.setPc v).dmpi = s.dmpi := rfl
@[simp] theorem setPc_dmRead (v : Addr) (w : Byte) (a : Addr) : (s.setPc v).dmRead w a = s.dmRead w a := rfl
@[simp] theorem setPc_cmRead (v : Addr) (a : Addr) : (s.setPc v).cmRead a = s.cmRead a := rfl
@[simp] theorem setPc_hasRoom (v : Addr) : (s.setPc v).hasRoom = s.hasRoom := rfl

/-! ### setStack -/

@[simp] theorem setStack_r (v : List Addr) : (s.setStack v).r = s.r := rfl
@[simp] theorem setStack_ph (v : List Addr) : (s.setStack v).ph = s.ph := rfl
@[simp] theorem setStack_pl (v : List Addr) : (s.setStack v).pl = s.pl := rfl
@[simp] theorem setStack_ch (v : List Addr) : (s.setStack v).ch = s.ch := rfl
@[simp] theorem setStack_cl (v : List Addr) : (s.setStack v).cl = s.cl := rfl
@[simp] theorem setStack_dum (v : List Addr) : (s.setStack v).dum = s.dum := rfl
@[simp] theorem setStack_k (v : List Addr) : (s.setStack v).k = s.k := rfl
@[simp] theorem setStack_ab (v : List Addr) : (s.setStack v).ab = s.ab := rfl
@[simp] theorem setStack_sl (v : List Addr) : (s.setStack v).sl = s.sl := rfl
@[simp] theorem setStack_sh (v : List Addr) : (s.setStack v).sh = s.sh := rfl
@[simp] theorem setStack_ar (v : List Addr) : (s.setStack v).ar = s.ar := rfl
@[simp] theorem setStack_pc (v : List Addr) : (s.setStack v).pc = s.pc := rfl
@[simp] theorem setStack_stack (v : List Addr) : (s.setStack v).stack = v := rfl
@[simp] theorem setStack_dm (v : List Addr) : (s.setStack v).dm = s.dm := rfl
@[simp] theorem setStack_cm (v : List Addr) : (s.setStack v).cm = s.cm := rfl
@[simp] theorem setStack_io (v : List Addr) : (s.setStack v).io = s.io := rfl
@[simp] theorem setStack_env (v : List Addr) : (s.setStack v).env = s.env := rfl
@[simp] theorem setStack_free (v : List Addr) : (s.setStack v).free = s.free := rfl
@[simp] theorem setStack_x (v : List Addr) (m : RegNum) : (s.setStack v).x m = s.x m := rfl
@[simp] theorem setStack_aux (v : List Addr) (m : ArNum) : (s.setStack v).aux m = s.aux m := rfl
@[simp] theorem setStack_phpl (v : List Addr) : (s.setStack v).phpl = s.phpl := rfl
@[simp] theorem setStack_carry (v : List Addr) : (s.setStack v).carry = s.carry := rfl
@[simp] theorem setStack_ibs (v : List Addr) : (s.setStack v).ibs = s.ibs := rfl
@[simp] theorem setStack_pedm (v : List Addr) : (s.setStack v).pedm = s.pedm := rfl
@[simp] theorem setStack_dmpi (v : List Addr) : (s.setStack v).dmpi = s.dmpi := rfl
@[simp] theorem setStack_dmRead (v : List Addr) (w : Byte) (a : Addr) : (s.setStack v).dmRead w a = s.dmRead w a := rfl
@[simp] theorem setStack_cmRead (v : List Addr) (a : Addr) : (s.setStack v).cmRead a = s.cmRead a := rfl
@[simp] theorem setStack_nextPc (v : List Addr) : (s.setStack v).nextPc = s.nextPc := rfl

/-! ### setDm -/

@[simp] theorem setDm_r (v : Memory 8) : (s.setDm v).r = s.r := rfl
@[simp] theorem setDm_ph (v : Memory 8) : (s.setDm v).ph = s.ph := rfl
@[simp] theorem setDm_pl (v : Memory 8) : (s.setDm v).pl = s.pl := rfl
@[simp] theorem setDm_ch (v : Memory 8) : (s.setDm v).ch = s.ch := rfl
@[simp] theorem setDm_cl (v : Memory 8) : (s.setDm v).cl = s.cl := rfl
@[simp] theorem setDm_dum (v : Memory 8) : (s.setDm v).dum = s.dum := rfl
@[simp] theorem setDm_k (v : Memory 8) : (s.setDm v).k = s.k := rfl
@[simp] theorem setDm_ab (v : Memory 8) : (s.setDm v).ab = s.ab := rfl
@[simp] theorem setDm_sl (v : Memory 8) : (s.setDm v).sl = s.sl := rfl
@[simp] theorem setDm_sh (v : Memory 8) : (s.setDm v).sh = s.sh := rfl
@[simp] theorem setDm_ar (v : Memory 8) : (s.setDm v).ar = s.ar := rfl
@[simp] theorem setDm_pc (v : Memory 8) : (s.setDm v).pc = s.pc := rfl
@[simp] theorem setDm_stack (v : Memory 8) : (s.setDm v).stack = s.stack := rfl
@[simp] theorem setDm_dm (v : Memory 8) : (s.setDm v).dm = v := rfl
@[simp] theorem setDm_cm (v : Memory 8) : (s.setDm v).cm = s.cm := rfl
@[simp] theorem setDm_io (v : Memory 8) : (s.setDm v).io = s.io := rfl
@[simp] theorem setDm_env (v : Memory 8) : (s.setDm v).env = s.env := rfl
@[simp] theorem setDm_free (v : Memory 8) : (s.setDm v).free = s.free := rfl
@[simp] theorem setDm_x (v : Memory 8) (m : RegNum) : (s.setDm v).x m = s.x m := rfl
@[simp] theorem setDm_aux (v : Memory 8) (m : ArNum) : (s.setDm v).aux m = s.aux m := rfl
@[simp] theorem setDm_phpl (v : Memory 8) : (s.setDm v).phpl = s.phpl := rfl
@[simp] theorem setDm_carry (v : Memory 8) : (s.setDm v).carry = s.carry := rfl
@[simp] theorem setDm_ibs (v : Memory 8) : (s.setDm v).ibs = s.ibs := rfl
@[simp] theorem setDm_pedm (v : Memory 8) : (s.setDm v).pedm = s.pedm := rfl
@[simp] theorem setDm_dmpi (v : Memory 8) : (s.setDm v).dmpi = s.dmpi := rfl
@[simp] theorem setDm_cmRead (v : Memory 8) (a : Addr) : (s.setDm v).cmRead a = s.cmRead a := rfl
@[simp] theorem setDm_nextPc (v : Memory 8) : (s.setDm v).nextPc = s.nextPc := rfl
@[simp] theorem setDm_hasRoom (v : Memory 8) : (s.setDm v).hasRoom = s.hasRoom := rfl

/-! ### setCm -/

@[simp] theorem setCm_r (v : Memory 24) : (s.setCm v).r = s.r := rfl
@[simp] theorem setCm_ph (v : Memory 24) : (s.setCm v).ph = s.ph := rfl
@[simp] theorem setCm_pl (v : Memory 24) : (s.setCm v).pl = s.pl := rfl
@[simp] theorem setCm_ch (v : Memory 24) : (s.setCm v).ch = s.ch := rfl
@[simp] theorem setCm_cl (v : Memory 24) : (s.setCm v).cl = s.cl := rfl
@[simp] theorem setCm_dum (v : Memory 24) : (s.setCm v).dum = s.dum := rfl
@[simp] theorem setCm_k (v : Memory 24) : (s.setCm v).k = s.k := rfl
@[simp] theorem setCm_ab (v : Memory 24) : (s.setCm v).ab = s.ab := rfl
@[simp] theorem setCm_sl (v : Memory 24) : (s.setCm v).sl = s.sl := rfl
@[simp] theorem setCm_sh (v : Memory 24) : (s.setCm v).sh = s.sh := rfl
@[simp] theorem setCm_ar (v : Memory 24) : (s.setCm v).ar = s.ar := rfl
@[simp] theorem setCm_pc (v : Memory 24) : (s.setCm v).pc = s.pc := rfl
@[simp] theorem setCm_stack (v : Memory 24) : (s.setCm v).stack = s.stack := rfl
@[simp] theorem setCm_dm (v : Memory 24) : (s.setCm v).dm = s.dm := rfl
@[simp] theorem setCm_cm (v : Memory 24) : (s.setCm v).cm = v := rfl
@[simp] theorem setCm_io (v : Memory 24) : (s.setCm v).io = s.io := rfl
@[simp] theorem setCm_env (v : Memory 24) : (s.setCm v).env = s.env := rfl
@[simp] theorem setCm_free (v : Memory 24) : (s.setCm v).free = s.free := rfl
@[simp] theorem setCm_x (v : Memory 24) (m : RegNum) : (s.setCm v).x m = s.x m := rfl
@[simp] theorem setCm_aux (v : Memory 24) (m : ArNum) : (s.setCm v).aux m = s.aux m := rfl
@[simp] theorem setCm_phpl (v : Memory 24) : (s.setCm v).phpl = s.phpl := rfl
@[simp] theorem setCm_carry (v : Memory 24) : (s.setCm v).carry = s.carry := rfl
@[simp] theorem setCm_ibs (v : Memory 24) : (s.setCm v).ibs = s.ibs := rfl
@[simp] theorem setCm_pedm (v : Memory 24) : (s.setCm v).pedm = s.pedm := rfl
@[simp] theorem setCm_dmpi (v : Memory 24) : (s.setCm v).dmpi = s.dmpi := rfl
@[simp] theorem setCm_dmRead (v : Memory 24) (w : Byte) (a : Addr) : (s.setCm v).dmRead w a = s.dmRead w a := rfl
@[simp] theorem setCm_nextPc (v : Memory 24) : (s.setCm v).nextPc = s.nextPc := rfl
@[simp] theorem setCm_hasRoom (v : Memory 24) : (s.setCm v).hasRoom = s.hasRoom := rfl

/-! ### setEnv -/

@[simp] theorem setEnv_r (v : List Turn) : (s.setEnv v).r = s.r := rfl
@[simp] theorem setEnv_ph (v : List Turn) : (s.setEnv v).ph = s.ph := rfl
@[simp] theorem setEnv_pl (v : List Turn) : (s.setEnv v).pl = s.pl := rfl
@[simp] theorem setEnv_ch (v : List Turn) : (s.setEnv v).ch = s.ch := rfl
@[simp] theorem setEnv_cl (v : List Turn) : (s.setEnv v).cl = s.cl := rfl
@[simp] theorem setEnv_dum (v : List Turn) : (s.setEnv v).dum = s.dum := rfl
@[simp] theorem setEnv_k (v : List Turn) : (s.setEnv v).k = s.k := rfl
@[simp] theorem setEnv_ab (v : List Turn) : (s.setEnv v).ab = s.ab := rfl
@[simp] theorem setEnv_sl (v : List Turn) : (s.setEnv v).sl = s.sl := rfl
@[simp] theorem setEnv_sh (v : List Turn) : (s.setEnv v).sh = s.sh := rfl
@[simp] theorem setEnv_ar (v : List Turn) : (s.setEnv v).ar = s.ar := rfl
@[simp] theorem setEnv_pc (v : List Turn) : (s.setEnv v).pc = s.pc := rfl
@[simp] theorem setEnv_stack (v : List Turn) : (s.setEnv v).stack = s.stack := rfl
@[simp] theorem setEnv_dm (v : List Turn) : (s.setEnv v).dm = s.dm := rfl
@[simp] theorem setEnv_cm (v : List Turn) : (s.setEnv v).cm = s.cm := rfl
@[simp] theorem setEnv_io (v : List Turn) : (s.setEnv v).io = s.io := rfl
@[simp] theorem setEnv_env (v : List Turn) : (s.setEnv v).env = v := rfl
@[simp] theorem setEnv_free (v : List Turn) : (s.setEnv v).free = s.free := rfl
@[simp] theorem setEnv_x (v : List Turn) (m : RegNum) : (s.setEnv v).x m = s.x m := rfl
@[simp] theorem setEnv_aux (v : List Turn) (m : ArNum) : (s.setEnv v).aux m = s.aux m := rfl
@[simp] theorem setEnv_phpl (v : List Turn) : (s.setEnv v).phpl = s.phpl := rfl
@[simp] theorem setEnv_carry (v : List Turn) : (s.setEnv v).carry = s.carry := rfl
@[simp] theorem setEnv_ibs (v : List Turn) : (s.setEnv v).ibs = s.ibs := rfl
@[simp] theorem setEnv_pedm (v : List Turn) : (s.setEnv v).pedm = s.pedm := rfl
@[simp] theorem setEnv_dmpi (v : List Turn) : (s.setEnv v).dmpi = s.dmpi := rfl
@[simp] theorem setEnv_dmRead (v : List Turn) (w : Byte) (a : Addr) : (s.setEnv v).dmRead w a = s.dmRead w a := rfl
@[simp] theorem setEnv_cmRead (v : List Turn) (a : Addr) : (s.setEnv v).cmRead a = s.cmRead a := rfl
@[simp] theorem setEnv_nextPc (v : List Turn) : (s.setEnv v).nextPc = s.nextPc := rfl
@[simp] theorem setEnv_hasRoom (v : List Turn) : (s.setEnv v).hasRoom = s.hasRoom := rfl

/-! ### useFree -/

@[simp] theorem useFree_r (n : Nat) : (s.useFree n).r = s.r := rfl
@[simp] theorem useFree_ph (n : Nat) : (s.useFree n).ph = s.ph := rfl
@[simp] theorem useFree_pl (n : Nat) : (s.useFree n).pl = s.pl := rfl
@[simp] theorem useFree_ch (n : Nat) : (s.useFree n).ch = s.ch := rfl
@[simp] theorem useFree_cl (n : Nat) : (s.useFree n).cl = s.cl := rfl
@[simp] theorem useFree_dum (n : Nat) : (s.useFree n).dum = s.dum := rfl
@[simp] theorem useFree_k (n : Nat) : (s.useFree n).k = s.k := rfl
@[simp] theorem useFree_ab (n : Nat) : (s.useFree n).ab = s.ab := rfl
@[simp] theorem useFree_sl (n : Nat) : (s.useFree n).sl = s.sl := rfl
@[simp] theorem useFree_sh (n : Nat) : (s.useFree n).sh = s.sh := rfl
@[simp] theorem useFree_ar (n : Nat) : (s.useFree n).ar = s.ar := rfl
@[simp] theorem useFree_pc (n : Nat) : (s.useFree n).pc = s.pc := rfl
@[simp] theorem useFree_stack (n : Nat) : (s.useFree n).stack = s.stack := rfl
@[simp] theorem useFree_dm (n : Nat) : (s.useFree n).dm = s.dm := rfl
@[simp] theorem useFree_cm (n : Nat) : (s.useFree n).cm = s.cm := rfl
@[simp] theorem useFree_io (n : Nat) : (s.useFree n).io = s.io := rfl
@[simp] theorem useFree_env (n : Nat) : (s.useFree n).env = s.env := rfl
@[simp] theorem useFree_free (n : Nat) : (s.useFree n).free = s.free + n := rfl
@[simp] theorem useFree_x (n : Nat) (m : RegNum) : (s.useFree n).x m = s.x m := rfl
@[simp] theorem useFree_aux (n : Nat) (m : ArNum) : (s.useFree n).aux m = s.aux m := rfl
@[simp] theorem useFree_phpl (n : Nat) : (s.useFree n).phpl = s.phpl := rfl
@[simp] theorem useFree_carry (n : Nat) : (s.useFree n).carry = s.carry := rfl
@[simp] theorem useFree_ibs (n : Nat) : (s.useFree n).ibs = s.ibs := rfl
@[simp] theorem useFree_pedm (n : Nat) : (s.useFree n).pedm = s.pedm := rfl
@[simp] theorem useFree_dmpi (n : Nat) : (s.useFree n).dmpi = s.dmpi := rfl
@[simp] theorem useFree_dmRead (n : Nat) (w : Byte) (a : Addr) : (s.useFree n).dmRead w a = s.dmRead w a := rfl
@[simp] theorem useFree_cmRead (n : Nat) (a : Addr) : (s.useFree n).cmRead a = s.cmRead a := rfl
@[simp] theorem useFree_nextPc (n : Nat) : (s.useFree n).nextPc = s.nextPc := rfl
@[simp] theorem useFree_hasRoom (n : Nat) : (s.useFree n).hasRoom = s.hasRoom := rfl

/-! ### emit -/

@[simp] theorem emit_r (e : IOEvent) : (s.emit e).r = s.r := rfl
@[simp] theorem emit_ph (e : IOEvent) : (s.emit e).ph = s.ph := rfl
@[simp] theorem emit_pl (e : IOEvent) : (s.emit e).pl = s.pl := rfl
@[simp] theorem emit_ch (e : IOEvent) : (s.emit e).ch = s.ch := rfl
@[simp] theorem emit_cl (e : IOEvent) : (s.emit e).cl = s.cl := rfl
@[simp] theorem emit_dum (e : IOEvent) : (s.emit e).dum = s.dum := rfl
@[simp] theorem emit_k (e : IOEvent) : (s.emit e).k = s.k := rfl
@[simp] theorem emit_ab (e : IOEvent) : (s.emit e).ab = s.ab := rfl
@[simp] theorem emit_sl (e : IOEvent) : (s.emit e).sl = s.sl := rfl
@[simp] theorem emit_sh (e : IOEvent) : (s.emit e).sh = s.sh := rfl
@[simp] theorem emit_ar (e : IOEvent) : (s.emit e).ar = s.ar := rfl
@[simp] theorem emit_pc (e : IOEvent) : (s.emit e).pc = s.pc := rfl
@[simp] theorem emit_stack (e : IOEvent) : (s.emit e).stack = s.stack := rfl
@[simp] theorem emit_dm (e : IOEvent) : (s.emit e).dm = s.dm := rfl
@[simp] theorem emit_cm (e : IOEvent) : (s.emit e).cm = s.cm := rfl
@[simp] theorem emit_io (e : IOEvent) : (s.emit e).io = s.io ++ [e] := rfl
@[simp] theorem emit_env (e : IOEvent) : (s.emit e).env = s.env := rfl
@[simp] theorem emit_free (e : IOEvent) : (s.emit e).free = s.free := rfl
@[simp] theorem emit_x (e : IOEvent) (m : RegNum) : (s.emit e).x m = s.x m := rfl
@[simp] theorem emit_aux (e : IOEvent) (m : ArNum) : (s.emit e).aux m = s.aux m := rfl
@[simp] theorem emit_phpl (e : IOEvent) : (s.emit e).phpl = s.phpl := rfl
@[simp] theorem emit_carry (e : IOEvent) : (s.emit e).carry = s.carry := rfl
@[simp] theorem emit_ibs (e : IOEvent) : (s.emit e).ibs = s.ibs := rfl
@[simp] theorem emit_pedm (e : IOEvent) : (s.emit e).pedm = s.pedm := rfl
@[simp] theorem emit_dmpi (e : IOEvent) : (s.emit e).dmpi = s.dmpi := rfl
@[simp] theorem emit_dmRead (e : IOEvent) (w : Byte) (a : Addr) : (s.emit e).dmRead w a = s.dmRead w a := rfl
@[simp] theorem emit_cmRead (e : IOEvent) (a : Addr) : (s.emit e).cmRead a = s.cmRead a := rfl
@[simp] theorem emit_nextPc (e : IOEvent) : (s.emit e).nextPc = s.nextPc := rfl
@[simp] theorem emit_hasRoom (e : IOEvent) : (s.emit e).hasRoom = s.hasRoom := rfl

/-! ### setPhpl -/

@[simp] theorem setPhpl_r (v : Addr) : (s.setPhpl v).r = s.r := rfl
@[simp] theorem setPhpl_ph (v : Addr) : (s.setPhpl v).ph = highByte v := rfl
@[simp] theorem setPhpl_pl (v : Addr) : (s.setPhpl v).pl = lowByte v := rfl
@[simp] theorem setPhpl_ch (v : Addr) : (s.setPhpl v).ch = s.ch := rfl
@[simp] theorem setPhpl_cl (v : Addr) : (s.setPhpl v).cl = s.cl := rfl
@[simp] theorem setPhpl_dum (v : Addr) : (s.setPhpl v).dum = s.dum := rfl
@[simp] theorem setPhpl_k (v : Addr) : (s.setPhpl v).k = s.k := rfl
@[simp] theorem setPhpl_ab (v : Addr) : (s.setPhpl v).ab = s.ab := rfl
@[simp] theorem setPhpl_sl (v : Addr) : (s.setPhpl v).sl = s.sl := rfl
@[simp] theorem setPhpl_sh (v : Addr) : (s.setPhpl v).sh = s.sh := rfl
@[simp] theorem setPhpl_ar (v : Addr) : (s.setPhpl v).ar = s.ar := rfl
@[simp] theorem setPhpl_pc (v : Addr) : (s.setPhpl v).pc = s.pc := rfl
@[simp] theorem setPhpl_stack (v : Addr) : (s.setPhpl v).stack = s.stack := rfl
@[simp] theorem setPhpl_dm (v : Addr) : (s.setPhpl v).dm = s.dm := rfl
@[simp] theorem setPhpl_cm (v : Addr) : (s.setPhpl v).cm = s.cm := rfl
@[simp] theorem setPhpl_io (v : Addr) : (s.setPhpl v).io = s.io := rfl
@[simp] theorem setPhpl_env (v : Addr) : (s.setPhpl v).env = s.env := rfl
@[simp] theorem setPhpl_free (v : Addr) : (s.setPhpl v).free = s.free := rfl
@[simp] theorem setPhpl_x (v : Addr) (m : RegNum) : (s.setPhpl v).x m = s.x m := rfl
@[simp] theorem setPhpl_aux (v : Addr) (m : ArNum) : (s.setPhpl v).aux m = s.aux m := rfl
@[simp] theorem setPhpl_carry (v : Addr) : (s.setPhpl v).carry = s.carry := rfl
@[simp] theorem setPhpl_ibs (v : Addr) : (s.setPhpl v).ibs = s.ibs := rfl
@[simp] theorem setPhpl_pedm (v : Addr) : (s.setPhpl v).pedm = s.pedm := rfl
@[simp] theorem setPhpl_dmpi (v : Addr) : (s.setPhpl v).dmpi = s.dmpi := rfl
@[simp] theorem setPhpl_dmRead (v : Addr) (w : Byte) (a : Addr) : (s.setPhpl v).dmRead w a = s.dmRead w a := rfl
@[simp] theorem setPhpl_cmRead (v : Addr) (a : Addr) : (s.setPhpl v).cmRead a = s.cmRead a := rfl
@[simp] theorem setPhpl_nextPc (v : Addr) : (s.setPhpl v).nextPc = s.nextPc := rfl
@[simp] theorem setPhpl_hasRoom (v : Addr) : (s.setPhpl v).hasRoom = s.hasRoom := rfl

/-! ### setShBit -/

@[simp] theorem setShBit_r (n : Nat) (b : Bool) : (s.setShBit n b).r = s.r := rfl
@[simp] theorem setShBit_ph (n : Nat) (b : Bool) : (s.setShBit n b).ph = s.ph := rfl
@[simp] theorem setShBit_pl (n : Nat) (b : Bool) : (s.setShBit n b).pl = s.pl := rfl
@[simp] theorem setShBit_ch (n : Nat) (b : Bool) : (s.setShBit n b).ch = s.ch := rfl
@[simp] theorem setShBit_cl (n : Nat) (b : Bool) : (s.setShBit n b).cl = s.cl := rfl
@[simp] theorem setShBit_dum (n : Nat) (b : Bool) : (s.setShBit n b).dum = s.dum := rfl
@[simp] theorem setShBit_k (n : Nat) (b : Bool) : (s.setShBit n b).k = s.k := rfl
@[simp] theorem setShBit_ab (n : Nat) (b : Bool) : (s.setShBit n b).ab = s.ab := rfl
@[simp] theorem setShBit_sl (n : Nat) (b : Bool) : (s.setShBit n b).sl = s.sl := rfl
@[simp] theorem setShBit_sh (n : Nat) (b : Bool) : (s.setShBit n b).sh = setBit s.sh n b := rfl
@[simp] theorem setShBit_ar (n : Nat) (b : Bool) : (s.setShBit n b).ar = s.ar := rfl
@[simp] theorem setShBit_pc (n : Nat) (b : Bool) : (s.setShBit n b).pc = s.pc := rfl
@[simp] theorem setShBit_stack (n : Nat) (b : Bool) : (s.setShBit n b).stack = s.stack := rfl
@[simp] theorem setShBit_dm (n : Nat) (b : Bool) : (s.setShBit n b).dm = s.dm := rfl
@[simp] theorem setShBit_cm (n : Nat) (b : Bool) : (s.setShBit n b).cm = s.cm := rfl
@[simp] theorem setShBit_io (n : Nat) (b : Bool) : (s.setShBit n b).io = s.io := rfl
@[simp] theorem setShBit_env (n : Nat) (b : Bool) : (s.setShBit n b).env = s.env := rfl
@[simp] theorem setShBit_free (n : Nat) (b : Bool) : (s.setShBit n b).free = s.free := rfl
@[simp] theorem setShBit_x (n : Nat) (b : Bool) (m : RegNum) : (s.setShBit n b).x m = s.x m := rfl
@[simp] theorem setShBit_aux (n : Nat) (b : Bool) (m : ArNum) : (s.setShBit n b).aux m = s.aux m := rfl
@[simp] theorem setShBit_phpl (n : Nat) (b : Bool) : (s.setShBit n b).phpl = s.phpl := rfl
@[simp] theorem setShBit_dmRead (n : Nat) (b : Bool) (w : Byte) (a : Addr) : (s.setShBit n b).dmRead w a = s.dmRead w a := rfl
@[simp] theorem setShBit_cmRead (n : Nat) (b : Bool) (a : Addr) : (s.setShBit n b).cmRead a = s.cmRead a := rfl
@[simp] theorem setShBit_nextPc (n : Nat) (b : Bool) : (s.setShBit n b).nextPc = s.nextPc := rfl
@[simp] theorem setShBit_hasRoom (n : Nat) (b : Bool) : (s.setShBit n b).hasRoom = s.hasRoom := rfl

/-! ### setCarry -/

@[simp] theorem setCarry_r (b : Bool) : (s.setCarry b).r = s.r := rfl
@[simp] theorem setCarry_ph (b : Bool) : (s.setCarry b).ph = s.ph := rfl
@[simp] theorem setCarry_pl (b : Bool) : (s.setCarry b).pl = s.pl := rfl
@[simp] theorem setCarry_ch (b : Bool) : (s.setCarry b).ch = s.ch := rfl
@[simp] theorem setCarry_cl (b : Bool) : (s.setCarry b).cl = s.cl := rfl
@[simp] theorem setCarry_dum (b : Bool) : (s.setCarry b).dum = s.dum := rfl
@[simp] theorem setCarry_k (b : Bool) : (s.setCarry b).k = s.k := rfl
@[simp] theorem setCarry_ab (b : Bool) : (s.setCarry b).ab = s.ab := rfl
@[simp] theorem setCarry_sl (b : Bool) : (s.setCarry b).sl = s.sl := rfl
@[simp] theorem setCarry_sh (b : Bool) : (s.setCarry b).sh = setBit s.sh 0 b := rfl
@[simp] theorem setCarry_ar (b : Bool) : (s.setCarry b).ar = s.ar := rfl
@[simp] theorem setCarry_pc (b : Bool) : (s.setCarry b).pc = s.pc := rfl
@[simp] theorem setCarry_stack (b : Bool) : (s.setCarry b).stack = s.stack := rfl
@[simp] theorem setCarry_dm (b : Bool) : (s.setCarry b).dm = s.dm := rfl
@[simp] theorem setCarry_cm (b : Bool) : (s.setCarry b).cm = s.cm := rfl
@[simp] theorem setCarry_io (b : Bool) : (s.setCarry b).io = s.io := rfl
@[simp] theorem setCarry_env (b : Bool) : (s.setCarry b).env = s.env := rfl
@[simp] theorem setCarry_free (b : Bool) : (s.setCarry b).free = s.free := rfl
@[simp] theorem setCarry_x (b : Bool) (m : RegNum) : (s.setCarry b).x m = s.x m := rfl
@[simp] theorem setCarry_aux (b : Bool) (m : ArNum) : (s.setCarry b).aux m = s.aux m := rfl
@[simp] theorem setCarry_phpl (b : Bool) : (s.setCarry b).phpl = s.phpl := rfl
@[simp] theorem setCarry_dmRead (b : Bool) (w : Byte) (a : Addr) : (s.setCarry b).dmRead w a = s.dmRead w a := rfl
@[simp] theorem setCarry_cmRead (b : Bool) (a : Addr) : (s.setCarry b).cmRead a = s.cmRead a := rfl
@[simp] theorem setCarry_nextPc (b : Bool) : (s.setCarry b).nextPc = s.nextPc := rfl
@[simp] theorem setCarry_hasRoom (b : Bool) : (s.setCarry b).hasRoom = s.hasRoom := rfl

/-! ### A view of the updated field itself -/

@[simp] theorem setR_x (n m : RegNum) (v : Byte) :
    (s.setR n v).x m = if n = m then v else s.x m := by
  simp only [State.x, State.setR, Fin.getElem_fin, Vector.getElem_set, Fin.ext_iff]

@[simp] theorem setAr_aux (n m : ArNum) (v : Addr) :
    (s.setAr n v).aux m = if n = m then v else s.aux m := by
  simp only [State.aux, State.setAr, Fin.getElem_fin, Vector.getElem_set, Fin.ext_iff]

@[simp] theorem highByte_append_lowByte (v : Addr) : highByte v ++ lowByte v = v := by
  apply BitVec.eq_of_toNat_eq
  have h := v.isLt
  simp only [highByte, lowByte, BitVec.toNat_append, BitVec.extractLsb'_toNat]
  rw [← Nat.shiftLeft_add_eq_or_of_lt (by omega)]
  simp only [Nat.shiftLeft_eq, Nat.shiftRight_eq_div_pow]
  omega

@[simp] theorem highByte_append (p q : Byte) : highByte (p ++ q) = p := by
  apply BitVec.eq_of_toNat_eq
  have h := p.isLt
  have h' := q.isLt
  simp only [highByte, BitVec.toNat_append, BitVec.extractLsb'_toNat]
  rw [← Nat.shiftLeft_add_eq_or_of_lt (by omega)]
  simp only [Nat.shiftLeft_eq, Nat.shiftRight_eq_div_pow]
  omega

@[simp] theorem lowByte_append (p q : Byte) : lowByte (p ++ q) = q := by
  apply BitVec.eq_of_toNat_eq
  have h := p.isLt
  have h' := q.isLt
  simp only [lowByte, BitVec.toNat_append, BitVec.extractLsb'_toNat]
  rw [← Nat.shiftLeft_add_eq_or_of_lt (by omega)]
  simp only [Nat.shiftLeft_eq, Nat.shiftRight_eq_div_pow]
  omega

@[simp] theorem setPhpl_phpl (v : Addr) : (s.setPhpl v).phpl = v := by
  simp [State.phpl]

@[simp] theorem setPhpl_self : s.setPhpl s.phpl = s := by
  simp [State.setPhpl, State.setPh, State.setPl, State.phpl]

@[simp] theorem setCm_cmRead (m : Memory 24) (a : Addr) :
    (s.setCm m).cmRead a = Memory.get m a.toNat := rfl

@[simp] theorem setDm_dmRead (m : Memory 8) (l : Byte) (a : Addr) :
    (s.setDm m).dmRead l a = Memory.get m (physAddr l a) := rfl

/-- Bit `i` of a byte with bit `n` made `b`. -/
@[simp] theorem setBit_getLsbD (v : Byte) (n i : Nat) (b : Bool) :
    (setBit v n b).getLsbD i = if i = n then (decide (i < 8) && b) else v.getLsbD i := by
  unfold setBit
  cases b <;> by_cases h : i = n <;> by_cases hi : i < 8 <;>
    simp [h, hi, BitVec.getLsbD_one] <;> grind

@[simp] theorem setBit_getElem (v : Byte) (n i : Nat) (b : Bool) (h : i < 8) :
    (setBit v n b)[i] = if i = n then b else v[i] := by
  rw [← BitVec.getLsbD_eq_getElem, setBit_getLsbD]
  simp [h]

@[simp] theorem setShBit_getLsbD (n i : Nat) (b : Bool) : ((s.setShBit n b).sh).getLsbD i =
    if i = n then (decide (i < 8) && b) else s.sh.getLsbD i := setBit_getLsbD _ _ _ _

@[simp] theorem setCarry_carry (b : Bool) : (s.setCarry b).carry = b := by
  simp [State.carry]

@[simp] theorem setCarry_ibs (b : Bool) : (s.setCarry b).ibs = s.ibs := by
  simp [State.ibs]

@[simp] theorem setCarry_pedm (b : Bool) : (s.setCarry b).pedm = s.pedm := by
  simp [State.pedm]

@[simp] theorem setCarry_dmpi (b : Bool) : (s.setCarry b).dmpi = s.dmpi := by
  simp [State.dmpi]

/-- What a program's write to SH leaves, bit by bit (R30 to R38, D22). -/
theorem shAfterWrite_bits (old v : Byte) :
    (shAfterWrite old v).getLsbD 0 = v.getLsbD 0 ∧
    (shAfterWrite old v).getLsbD 1 = v.getLsbD 1 ∧
    (shAfterWrite old v).getLsbD 2 = old.getLsbD 2 ∧
    (shAfterWrite old v).getLsbD 3 = old.getLsbD 3 ∧
    (shAfterWrite old v).getLsbD 4 = old.getLsbD 4 ∧
    (shAfterWrite old v).getLsbD 5 = old.getLsbD 5 ∧
    (shAfterWrite old v).getLsbD 6 = (v.getLsbD 6 && old.getLsbD 6) ∧
    (shAfterWrite old v).getLsbD 7 = v.getLsbD 7 := by
  simp [shAfterWrite]

end Sys2Proof.Machine
end

