-- ==== Sys2Proof/Laws/Ops.lean ====
section
/-! SUPPORT. What each shared operation leaves unchanged, and what it does. -/

namespace Sys2Proof.Machine

variable (s : State)

/-! ### chClFree -/

@[simp] theorem chClFree_r : (s.chClFree).r = s.r := rfl
@[simp] theorem chClFree_ph : (s.chClFree).ph = s.ph := rfl
@[simp] theorem chClFree_pl : (s.chClFree).pl = s.pl := rfl
@[simp] theorem chClFree_dum : (s.chClFree).dum = s.dum := rfl
@[simp] theorem chClFree_k : (s.chClFree).k = s.k := rfl
@[simp] theorem chClFree_ab : (s.chClFree).ab = s.ab := rfl
@[simp] theorem chClFree_sl : (s.chClFree).sl = s.sl := rfl
@[simp] theorem chClFree_sh : (s.chClFree).sh = s.sh := rfl
@[simp] theorem chClFree_ar : (s.chClFree).ar = s.ar := rfl
@[simp] theorem chClFree_pc : (s.chClFree).pc = s.pc := rfl
@[simp] theorem chClFree_stack : (s.chClFree).stack = s.stack := rfl
@[simp] theorem chClFree_dm : (s.chClFree).dm = s.dm := rfl
@[simp] theorem chClFree_cm : (s.chClFree).cm = s.cm := rfl
@[simp] theorem chClFree_io : (s.chClFree).io = s.io := rfl
@[simp] theorem chClFree_env : (s.chClFree).env = s.env := rfl
@[simp] theorem chClFree_x (m : RegNum) : (s.chClFree).x m = s.x m := rfl
@[simp] theorem chClFree_aux (m : ArNum) : (s.chClFree).aux m = s.aux m := rfl
@[simp] theorem chClFree_phpl  : (s.chClFree).phpl = s.phpl := rfl
@[simp] theorem chClFree_carry  : (s.chClFree).carry = s.carry := rfl
@[simp] theorem chClFree_pedm  : (s.chClFree).pedm = s.pedm := rfl
@[simp] theorem chClFree_dmpi  : (s.chClFree).dmpi = s.dmpi := rfl
@[simp] theorem chClFree_dmRead (l : Byte) (b : Addr) : (s.chClFree).dmRead l b = s.dmRead l b := rfl
@[simp] theorem chClFree_cmRead (b : Addr) : (s.chClFree).cmRead b = s.cmRead b := rfl
@[simp] theorem chClFree_nextPc  : (s.chClFree).nextPc = s.nextPc := rfl

/-! ### chClAfterWrite -/

@[simp] theorem chClAfterWrite_r (w : Byte) (ma : Addr) : (s.chClAfterWrite w ma).r = s.r := by
  unfold State.chClAfterWrite; split <;> (try split) <;> rfl
@[simp] theorem chClAfterWrite_ph (w : Byte) (ma : Addr) : (s.chClAfterWrite w ma).ph = s.ph := by
  unfold State.chClAfterWrite; split <;> (try split) <;> rfl
@[simp] theorem chClAfterWrite_pl (w : Byte) (ma : Addr) : (s.chClAfterWrite w ma).pl = s.pl := by
  unfold State.chClAfterWrite; split <;> (try split) <;> rfl
@[simp] theorem chClAfterWrite_dum (w : Byte) (ma : Addr) : (s.chClAfterWrite w ma).dum = s.dum := by
  unfold State.chClAfterWrite; split <;> (try split) <;> rfl
@[simp] theorem chClAfterWrite_k (w : Byte) (ma : Addr) : (s.chClAfterWrite w ma).k = s.k := by
  unfold State.chClAfterWrite; split <;> (try split) <;> rfl
@[simp] theorem chClAfterWrite_ab (w : Byte) (ma : Addr) : (s.chClAfterWrite w ma).ab = s.ab := by
  unfold State.chClAfterWrite; split <;> (try split) <;> rfl
@[simp] theorem chClAfterWrite_sl (w : Byte) (ma : Addr) : (s.chClAfterWrite w ma).sl = s.sl := by
  unfold State.chClAfterWrite; split <;> (try split) <;> rfl
@[simp] theorem chClAfterWrite_sh (w : Byte) (ma : Addr) : (s.chClAfterWrite w ma).sh = s.sh := by
  unfold State.chClAfterWrite; split <;> (try split) <;> rfl
@[simp] theorem chClAfterWrite_ar (w : Byte) (ma : Addr) : (s.chClAfterWrite w ma).ar = s.ar := by
  unfold State.chClAfterWrite; split <;> (try split) <;> rfl
@[simp] theorem chClAfterWrite_pc (w : Byte) (ma : Addr) : (s.chClAfterWrite w ma).pc = s.pc := by
  unfold State.chClAfterWrite; split <;> (try split) <;> rfl
@[simp] theorem chClAfterWrite_stack (w : Byte) (ma : Addr) : (s.chClAfterWrite w ma).stack = s.stack := by
  unfold State.chClAfterWrite; split <;> (try split) <;> rfl
@[simp] theorem chClAfterWrite_dm (w : Byte) (ma : Addr) : (s.chClAfterWrite w ma).dm = s.dm := by
  unfold State.chClAfterWrite; split <;> (try split) <;> rfl
@[simp] theorem chClAfterWrite_cm (w : Byte) (ma : Addr) : (s.chClAfterWrite w ma).cm = s.cm := by
  unfold State.chClAfterWrite; split <;> (try split) <;> rfl
@[simp] theorem chClAfterWrite_io (w : Byte) (ma : Addr) : (s.chClAfterWrite w ma).io = s.io := by
  unfold State.chClAfterWrite; split <;> (try split) <;> rfl
@[simp] theorem chClAfterWrite_env (w : Byte) (ma : Addr) : (s.chClAfterWrite w ma).env = s.env := by
  unfold State.chClAfterWrite; split <;> (try split) <;> rfl
@[simp] theorem chClAfterWrite_x (w : Byte) (ma : Addr) (m : RegNum) : (s.chClAfterWrite w ma).x m = s.x m := by
  simp only [State.x, chClAfterWrite_r]
@[simp] theorem chClAfterWrite_aux (w : Byte) (ma : Addr) (m : ArNum) : (s.chClAfterWrite w ma).aux m = s.aux m := by
  simp only [State.aux, chClAfterWrite_ar]
@[simp] theorem chClAfterWrite_phpl (w : Byte) (ma : Addr)  : (s.chClAfterWrite w ma).phpl  = s.phpl  := by
  simp only [State.phpl, chClAfterWrite_ph, chClAfterWrite_pl]
@[simp] theorem chClAfterWrite_carry (w : Byte) (ma : Addr)  : (s.chClAfterWrite w ma).carry  = s.carry  := by
  simp only [State.carry, chClAfterWrite_sh]
@[simp] theorem chClAfterWrite_pedm (w : Byte) (ma : Addr)  : (s.chClAfterWrite w ma).pedm  = s.pedm  := by
  simp only [State.pedm, chClAfterWrite_sh]
@[simp] theorem chClAfterWrite_dmpi (w : Byte) (ma : Addr)  : (s.chClAfterWrite w ma).dmpi  = s.dmpi  := by
  simp only [State.dmpi, chClAfterWrite_sh]
@[simp] theorem chClAfterWrite_dmRead (w : Byte) (ma : Addr) (l : Byte) (b : Addr) : (s.chClAfterWrite w ma).dmRead l b = s.dmRead l b := by
  simp only [State.dmRead, chClAfterWrite_dm]
@[simp] theorem chClAfterWrite_cmRead (w : Byte) (ma : Addr) (b : Addr) : (s.chClAfterWrite w ma).cmRead b = s.cmRead b := by
  simp only [State.cmRead, chClAfterWrite_cm]
@[simp] theorem chClAfterWrite_nextPc (w : Byte) (ma : Addr)  : (s.chClAfterWrite w ma).nextPc  = s.nextPc  := by
  simp only [State.nextPc, chClAfterWrite_pc]

/-! ### dmWrite -/

@[simp] theorem dmWrite_r (w : Byte) (a : Addr) (v : Byte) : (s.dmWrite w a v).r = s.r := by
  unfold State.dmWrite; split <;> rfl
@[simp] theorem dmWrite_ph (w : Byte) (a : Addr) (v : Byte) : (s.dmWrite w a v).ph = s.ph := by
  unfold State.dmWrite; split <;> rfl
@[simp] theorem dmWrite_pl (w : Byte) (a : Addr) (v : Byte) : (s.dmWrite w a v).pl = s.pl := by
  unfold State.dmWrite; split <;> rfl
@[simp] theorem dmWrite_ch (w : Byte) (a : Addr) (v : Byte) : (s.dmWrite w a v).ch = s.ch := by
  unfold State.dmWrite; split <;> rfl
@[simp] theorem dmWrite_cl (w : Byte) (a : Addr) (v : Byte) : (s.dmWrite w a v).cl = s.cl := by
  unfold State.dmWrite; split <;> rfl
@[simp] theorem dmWrite_dum (w : Byte) (a : Addr) (v : Byte) : (s.dmWrite w a v).dum = s.dum := by
  unfold State.dmWrite; split <;> rfl
@[simp] theorem dmWrite_k (w : Byte) (a : Addr) (v : Byte) : (s.dmWrite w a v).k = s.k := by
  unfold State.dmWrite; split <;> rfl
@[simp] theorem dmWrite_ab (w : Byte) (a : Addr) (v : Byte) : (s.dmWrite w a v).ab = s.ab := by
  unfold State.dmWrite; split <;> rfl
@[simp] theorem dmWrite_sl (w : Byte) (a : Addr) (v : Byte) : (s.dmWrite w a v).sl = s.sl := by
  unfold State.dmWrite; split <;> rfl
@[simp] theorem dmWrite_sh (w : Byte) (a : Addr) (v : Byte) : (s.dmWrite w a v).sh = s.sh := by
  unfold State.dmWrite; split <;> rfl
@[simp] theorem dmWrite_ar (w : Byte) (a : Addr) (v : Byte) : (s.dmWrite w a v).ar = s.ar := by
  unfold State.dmWrite; split <;> rfl
@[simp] theorem dmWrite_pc (w : Byte) (a : Addr) (v : Byte) : (s.dmWrite w a v).pc = s.pc := by
  unfold State.dmWrite; split <;> rfl
@[simp] theorem dmWrite_stack (w : Byte) (a : Addr) (v : Byte) : (s.dmWrite w a v).stack = s.stack := by
  unfold State.dmWrite; split <;> rfl
@[simp] theorem dmWrite_cm (w : Byte) (a : Addr) (v : Byte) : (s.dmWrite w a v).cm = s.cm := by
  unfold State.dmWrite; split <;> rfl
@[simp] theorem dmWrite_io (w : Byte) (a : Addr) (v : Byte) : (s.dmWrite w a v).io = s.io := by
  unfold State.dmWrite; split <;> rfl
@[simp] theorem dmWrite_env (w : Byte) (a : Addr) (v : Byte) : (s.dmWrite w a v).env = s.env := by
  unfold State.dmWrite; split <;> rfl
@[simp] theorem dmWrite_free (w : Byte) (a : Addr) (v : Byte) : (s.dmWrite w a v).free = s.free := by
  unfold State.dmWrite; split <;> rfl
@[simp] theorem dmWrite_x (w : Byte) (a : Addr) (v : Byte) (m : RegNum) : (s.dmWrite w a v).x m = s.x m := by
  simp only [State.x, dmWrite_r]
@[simp] theorem dmWrite_aux (w : Byte) (a : Addr) (v : Byte) (m : ArNum) : (s.dmWrite w a v).aux m = s.aux m := by
  simp only [State.aux, dmWrite_ar]
@[simp] theorem dmWrite_phpl (w : Byte) (a : Addr) (v : Byte)  : (s.dmWrite w a v).phpl  = s.phpl  := by
  simp only [State.phpl, dmWrite_ph, dmWrite_pl]
@[simp] theorem dmWrite_carry (w : Byte) (a : Addr) (v : Byte)  : (s.dmWrite w a v).carry  = s.carry  := by
  simp only [State.carry, dmWrite_sh]
@[simp] theorem dmWrite_pedm (w : Byte) (a : Addr) (v : Byte)  : (s.dmWrite w a v).pedm  = s.pedm  := by
  simp only [State.pedm, dmWrite_sh]
@[simp] theorem dmWrite_dmpi (w : Byte) (a : Addr) (v : Byte)  : (s.dmWrite w a v).dmpi  = s.dmpi  := by
  simp only [State.dmpi, dmWrite_sh]
@[simp] theorem dmWrite_cmRead (w : Byte) (a : Addr) (v : Byte) (b : Addr) : (s.dmWrite w a v).cmRead b = s.cmRead b := by
  simp only [State.cmRead, dmWrite_cm]
@[simp] theorem dmWrite_nextPc (w : Byte) (a : Addr) (v : Byte)  : (s.dmWrite w a v).nextPc  = s.nextPc  := by
  simp only [State.nextPc, dmWrite_pc]

/-! ### dmOp -/

@[simp] theorem dmOp_r (mm : MemOp) (w : Byte) (ma : Addr) (v : Byte) : (s.dmOp mm w ma v).r = s.r := by
  cases mm <;> simp only [State.dmOp] <;> (try split) <;> simp
@[simp] theorem dmOp_ph (mm : MemOp) (w : Byte) (ma : Addr) (v : Byte) : (s.dmOp mm w ma v).ph = s.ph := by
  cases mm <;> simp only [State.dmOp] <;> (try split) <;> simp
@[simp] theorem dmOp_pl (mm : MemOp) (w : Byte) (ma : Addr) (v : Byte) : (s.dmOp mm w ma v).pl = s.pl := by
  cases mm <;> simp only [State.dmOp] <;> (try split) <;> simp
@[simp] theorem dmOp_dum (mm : MemOp) (w : Byte) (ma : Addr) (v : Byte) : (s.dmOp mm w ma v).dum = s.dum := by
  cases mm <;> simp only [State.dmOp] <;> (try split) <;> simp
@[simp] theorem dmOp_k (mm : MemOp) (w : Byte) (ma : Addr) (v : Byte) : (s.dmOp mm w ma v).k = s.k := by
  cases mm <;> simp only [State.dmOp] <;> (try split) <;> simp
@[simp] theorem dmOp_ab (mm : MemOp) (w : Byte) (ma : Addr) (v : Byte) : (s.dmOp mm w ma v).ab = s.ab := by
  cases mm <;> simp only [State.dmOp] <;> (try split) <;> simp
@[simp] theorem dmOp_sl (mm : MemOp) (w : Byte) (ma : Addr) (v : Byte) : (s.dmOp mm w ma v).sl = s.sl := by
  cases mm <;> simp only [State.dmOp] <;> (try split) <;> simp
@[simp] theorem dmOp_ar (mm : MemOp) (w : Byte) (ma : Addr) (v : Byte) : (s.dmOp mm w ma v).ar = s.ar := by
  cases mm <;> simp only [State.dmOp] <;> (try split) <;> simp
@[simp] theorem dmOp_pc (mm : MemOp) (w : Byte) (ma : Addr) (v : Byte) : (s.dmOp mm w ma v).pc = s.pc := by
  cases mm <;> simp only [State.dmOp] <;> (try split) <;> simp
@[simp] theorem dmOp_stack (mm : MemOp) (w : Byte) (ma : Addr) (v : Byte) : (s.dmOp mm w ma v).stack = s.stack := by
  cases mm <;> simp only [State.dmOp] <;> (try split) <;> simp
@[simp] theorem dmOp_cm (mm : MemOp) (w : Byte) (ma : Addr) (v : Byte) : (s.dmOp mm w ma v).cm = s.cm := by
  cases mm <;> simp only [State.dmOp] <;> (try split) <;> simp
@[simp] theorem dmOp_io (mm : MemOp) (w : Byte) (ma : Addr) (v : Byte) : (s.dmOp mm w ma v).io = s.io := by
  cases mm <;> simp only [State.dmOp] <;> (try split) <;> simp
@[simp] theorem dmOp_env (mm : MemOp) (w : Byte) (ma : Addr) (v : Byte) : (s.dmOp mm w ma v).env = s.env := by
  cases mm <;> simp only [State.dmOp] <;> (try split) <;> simp
@[simp] theorem dmOp_x (mm : MemOp) (w : Byte) (ma : Addr) (v : Byte) (m : RegNum) : (s.dmOp mm w ma v).x m = s.x m := by
  simp only [State.x, dmOp_r]
@[simp] theorem dmOp_aux (mm : MemOp) (w : Byte) (ma : Addr) (v : Byte) (m : ArNum) : (s.dmOp mm w ma v).aux m = s.aux m := by
  simp only [State.aux, dmOp_ar]
@[simp] theorem dmOp_phpl (mm : MemOp) (w : Byte) (ma : Addr) (v : Byte)  : (s.dmOp mm w ma v).phpl  = s.phpl  := by
  simp only [State.phpl, dmOp_ph, dmOp_pl]
@[simp] theorem dmOp_cmRead (mm : MemOp) (w : Byte) (ma : Addr) (v : Byte) (b : Addr) : (s.dmOp mm w ma v).cmRead b = s.cmRead b := by
  simp only [State.cmRead, dmOp_cm]
@[simp] theorem dmOp_nextPc (mm : MemOp) (w : Byte) (ma : Addr) (v : Byte)  : (s.dmOp mm w ma v).nextPc  = s.nextPc  := by
  simp only [State.nextPc, dmOp_pc]

/-! ### finish -/

@[simp] theorem finish_r (mm : MemOp) (w : Byte) (ma next : Addr) : (s.finish mm w ma next).r = s.r := by
  unfold State.finish State.takeVector; split <;> rfl
@[simp] theorem finish_ph (mm : MemOp) (w : Byte) (ma next : Addr) : (s.finish mm w ma next).ph = s.ph := by
  unfold State.finish State.takeVector; split <;> rfl
@[simp] theorem finish_pl (mm : MemOp) (w : Byte) (ma next : Addr) : (s.finish mm w ma next).pl = s.pl := by
  unfold State.finish State.takeVector; split <;> rfl
@[simp] theorem finish_ch (mm : MemOp) (w : Byte) (ma next : Addr) : (s.finish mm w ma next).ch = s.ch := by
  unfold State.finish State.takeVector; split <;> rfl
@[simp] theorem finish_cl (mm : MemOp) (w : Byte) (ma next : Addr) : (s.finish mm w ma next).cl = s.cl := by
  unfold State.finish State.takeVector; split <;> rfl
@[simp] theorem finish_dum (mm : MemOp) (w : Byte) (ma next : Addr) : (s.finish mm w ma next).dum = s.dum := by
  unfold State.finish State.takeVector; split <;> rfl
@[simp] theorem finish_k (mm : MemOp) (w : Byte) (ma next : Addr) : (s.finish mm w ma next).k = s.k := by
  unfold State.finish State.takeVector; split <;> rfl
@[simp] theorem finish_ab (mm : MemOp) (w : Byte) (ma next : Addr) : (s.finish mm w ma next).ab = s.ab := by
  unfold State.finish State.takeVector; split <;> rfl
@[simp] theorem finish_sl (mm : MemOp) (w : Byte) (ma next : Addr) : (s.finish mm w ma next).sl = s.sl := by
  unfold State.finish State.takeVector; split <;> rfl
@[simp] theorem finish_sh (mm : MemOp) (w : Byte) (ma next : Addr) : (s.finish mm w ma next).sh = s.sh := by
  unfold State.finish State.takeVector; split <;> rfl
@[simp] theorem finish_ar (mm : MemOp) (w : Byte) (ma next : Addr) : (s.finish mm w ma next).ar = s.ar := by
  unfold State.finish State.takeVector; split <;> rfl
@[simp] theorem finish_stack (mm : MemOp) (w : Byte) (ma next : Addr) : (s.finish mm w ma next).stack = s.stack := by
  unfold State.finish State.takeVector; split <;> rfl
@[simp] theorem finish_dm (mm : MemOp) (w : Byte) (ma next : Addr) : (s.finish mm w ma next).dm = s.dm := by
  unfold State.finish State.takeVector; split <;> rfl
@[simp] theorem finish_cm (mm : MemOp) (w : Byte) (ma next : Addr) : (s.finish mm w ma next).cm = s.cm := by
  unfold State.finish State.takeVector; split <;> rfl
@[simp] theorem finish_io (mm : MemOp) (w : Byte) (ma next : Addr) : (s.finish mm w ma next).io = s.io := by
  unfold State.finish State.takeVector; split <;> rfl
@[simp] theorem finish_env (mm : MemOp) (w : Byte) (ma next : Addr) : (s.finish mm w ma next).env = s.env := by
  unfold State.finish State.takeVector; split <;> rfl
@[simp] theorem finish_free (mm : MemOp) (w : Byte) (ma next : Addr) : (s.finish mm w ma next).free = s.free := by
  unfold State.finish State.takeVector; split <;> rfl
@[simp] theorem finish_x (mm : MemOp) (w : Byte) (ma next : Addr) (m : RegNum) : (s.finish mm w ma next).x m = s.x m := by
  simp only [State.x, finish_r]
@[simp] theorem finish_aux (mm : MemOp) (w : Byte) (ma next : Addr) (m : ArNum) : (s.finish mm w ma next).aux m = s.aux m := by
  simp only [State.aux, finish_ar]
@[simp] theorem finish_phpl (mm : MemOp) (w : Byte) (ma next : Addr)  : (s.finish mm w ma next).phpl  = s.phpl  := by
  simp only [State.phpl, finish_ph, finish_pl]
@[simp] theorem finish_carry (mm : MemOp) (w : Byte) (ma next : Addr)  : (s.finish mm w ma next).carry  = s.carry  := by
  simp only [State.carry, finish_sh]
@[simp] theorem finish_pedm (mm : MemOp) (w : Byte) (ma next : Addr)  : (s.finish mm w ma next).pedm  = s.pedm  := by
  simp only [State.pedm, finish_sh]
@[simp] theorem finish_dmpi (mm : MemOp) (w : Byte) (ma next : Addr)  : (s.finish mm w ma next).dmpi  = s.dmpi  := by
  simp only [State.dmpi, finish_sh]
@[simp] theorem finish_dmRead (mm : MemOp) (w : Byte) (ma next : Addr) (l : Byte) (b : Addr) : (s.finish mm w ma next).dmRead l b = s.dmRead l b := by
  simp only [State.dmRead, finish_dm]
@[simp] theorem finish_cmRead (mm : MemOp) (w : Byte) (ma next : Addr) (b : Addr) : (s.finish mm w ma next).cmRead b = s.cmRead b := by
  simp only [State.cmRead, finish_cm]

/-! ### carryControl -/

@[simp] theorem carryControl_r (cc : CarryCtl) : (s.carryControl cc).r = s.r := by cases cc <;> rfl
@[simp] theorem carryControl_ph (cc : CarryCtl) : (s.carryControl cc).ph = s.ph := by cases cc <;> rfl
@[simp] theorem carryControl_pl (cc : CarryCtl) : (s.carryControl cc).pl = s.pl := by cases cc <;> rfl
@[simp] theorem carryControl_ch (cc : CarryCtl) : (s.carryControl cc).ch = s.ch := by cases cc <;> rfl
@[simp] theorem carryControl_cl (cc : CarryCtl) : (s.carryControl cc).cl = s.cl := by cases cc <;> rfl
@[simp] theorem carryControl_dum (cc : CarryCtl) : (s.carryControl cc).dum = s.dum := by cases cc <;> rfl
@[simp] theorem carryControl_k (cc : CarryCtl) : (s.carryControl cc).k = s.k := by cases cc <;> rfl
@[simp] theorem carryControl_ab (cc : CarryCtl) : (s.carryControl cc).ab = s.ab := by cases cc <;> rfl
@[simp] theorem carryControl_sl (cc : CarryCtl) : (s.carryControl cc).sl = s.sl := by cases cc <;> rfl
@[simp] theorem carryControl_ar (cc : CarryCtl) : (s.carryControl cc).ar = s.ar := by cases cc <;> rfl
@[simp] theorem carryControl_pc (cc : CarryCtl) : (s.carryControl cc).pc = s.pc := by cases cc <;> rfl
@[simp] theorem carryControl_stack (cc : CarryCtl) : (s.carryControl cc).stack = s.stack := by cases cc <;> rfl
@[simp] theorem carryControl_dm (cc : CarryCtl) : (s.carryControl cc).dm = s.dm := by cases cc <;> rfl
@[simp] theorem carryControl_cm (cc : CarryCtl) : (s.carryControl cc).cm = s.cm := by cases cc <;> rfl
@[simp] theorem carryControl_io (cc : CarryCtl) : (s.carryControl cc).io = s.io := by cases cc <;> rfl
@[simp] theorem carryControl_env (cc : CarryCtl) : (s.carryControl cc).env = s.env := by cases cc <;> rfl
@[simp] theorem carryControl_free (cc : CarryCtl) : (s.carryControl cc).free = s.free := by cases cc <;> rfl
@[simp] theorem carryControl_x (cc : CarryCtl) (m : RegNum) : (s.carryControl cc).x m = s.x m := by
  simp only [State.x, carryControl_r]
@[simp] theorem carryControl_aux (cc : CarryCtl) (m : ArNum) : (s.carryControl cc).aux m = s.aux m := by
  simp only [State.aux, carryControl_ar]
@[simp] theorem carryControl_phpl (cc : CarryCtl)  : (s.carryControl cc).phpl  = s.phpl  := by
  simp only [State.phpl, carryControl_ph, carryControl_pl]
@[simp] theorem carryControl_dmRead (cc : CarryCtl) (l : Byte) (b : Addr) : (s.carryControl cc).dmRead l b = s.dmRead l b := by
  simp only [State.dmRead, carryControl_dm]
@[simp] theorem carryControl_cmRead (cc : CarryCtl) (b : Addr) : (s.carryControl cc).cmRead b = s.cmRead b := by
  simp only [State.cmRead, carryControl_cm]
@[simp] theorem carryControl_nextPc (cc : CarryCtl)  : (s.carryControl cc).nextPc  = s.nextPc  := by
  simp only [State.nextPc, carryControl_pc]

/-! ### carryOut -/

@[simp] theorem carryOut_r (c : Option Bool) : (s.carryOut c).r = s.r := by cases c <;> rfl
@[simp] theorem carryOut_ph (c : Option Bool) : (s.carryOut c).ph = s.ph := by cases c <;> rfl
@[simp] theorem carryOut_pl (c : Option Bool) : (s.carryOut c).pl = s.pl := by cases c <;> rfl
@[simp] theorem carryOut_ch (c : Option Bool) : (s.carryOut c).ch = s.ch := by cases c <;> rfl
@[simp] theorem carryOut_cl (c : Option Bool) : (s.carryOut c).cl = s.cl := by cases c <;> rfl
@[simp] theorem carryOut_dum (c : Option Bool) : (s.carryOut c).dum = s.dum := by cases c <;> rfl
@[simp] theorem carryOut_k (c : Option Bool) : (s.carryOut c).k = s.k := by cases c <;> rfl
@[simp] theorem carryOut_ab (c : Option Bool) : (s.carryOut c).ab = s.ab := by cases c <;> rfl
@[simp] theorem carryOut_sl (c : Option Bool) : (s.carryOut c).sl = s.sl := by cases c <;> rfl
@[simp] theorem carryOut_ar (c : Option Bool) : (s.carryOut c).ar = s.ar := by cases c <;> rfl
@[simp] theorem carryOut_pc (c : Option Bool) : (s.carryOut c).pc = s.pc := by cases c <;> rfl
@[simp] theorem carryOut_stack (c : Option Bool) : (s.carryOut c).stack = s.stack := by cases c <;> rfl
@[simp] theorem carryOut_dm (c : Option Bool) : (s.carryOut c).dm = s.dm := by cases c <;> rfl
@[simp] theorem carryOut_cm (c : Option Bool) : (s.carryOut c).cm = s.cm := by cases c <;> rfl
@[simp] theorem carryOut_io (c : Option Bool) : (s.carryOut c).io = s.io := by cases c <;> rfl
@[simp] theorem carryOut_env (c : Option Bool) : (s.carryOut c).env = s.env := by cases c <;> rfl
@[simp] theorem carryOut_free (c : Option Bool) : (s.carryOut c).free = s.free := by cases c <;> rfl
@[simp] theorem carryOut_x (c : Option Bool) (m : RegNum) : (s.carryOut c).x m = s.x m := by
  simp only [State.x, carryOut_r]
@[simp] theorem carryOut_aux (c : Option Bool) (m : ArNum) : (s.carryOut c).aux m = s.aux m := by
  simp only [State.aux, carryOut_ar]
@[simp] theorem carryOut_phpl (c : Option Bool)  : (s.carryOut c).phpl  = s.phpl  := by
  simp only [State.phpl, carryOut_ph, carryOut_pl]
@[simp] theorem carryOut_dmRead (c : Option Bool) (l : Byte) (b : Addr) : (s.carryOut c).dmRead l b = s.dmRead l b := by
  simp only [State.dmRead, carryOut_dm]
@[simp] theorem carryOut_cmRead (c : Option Bool) (b : Addr) : (s.carryOut c).cmRead b = s.cmRead b := by
  simp only [State.cmRead, carryOut_cm]
@[simp] theorem carryOut_nextPc (c : Option Bool)  : (s.carryOut c).nextPc  = s.nextPc  := by
  simp only [State.nextPc, carryOut_pc]

/-! ### movePointer -/

@[simp] theorem movePointer_r (a : ASrc) : (s.movePointer a).r = s.r := rfl
@[simp] theorem movePointer_ch (a : ASrc) : (s.movePointer a).ch = s.ch := rfl
@[simp] theorem movePointer_cl (a : ASrc) : (s.movePointer a).cl = s.cl := rfl
@[simp] theorem movePointer_dum (a : ASrc) : (s.movePointer a).dum = s.dum := rfl
@[simp] theorem movePointer_k (a : ASrc) : (s.movePointer a).k = s.k := rfl
@[simp] theorem movePointer_ab (a : ASrc) : (s.movePointer a).ab = s.ab := rfl
@[simp] theorem movePointer_sl (a : ASrc) : (s.movePointer a).sl = s.sl := rfl
@[simp] theorem movePointer_sh (a : ASrc) : (s.movePointer a).sh = s.sh := rfl
@[simp] theorem movePointer_ar (a : ASrc) : (s.movePointer a).ar = s.ar := rfl
@[simp] theorem movePointer_pc (a : ASrc) : (s.movePointer a).pc = s.pc := rfl
@[simp] theorem movePointer_stack (a : ASrc) : (s.movePointer a).stack = s.stack := rfl
@[simp] theorem movePointer_dm (a : ASrc) : (s.movePointer a).dm = s.dm := rfl
@[simp] theorem movePointer_cm (a : ASrc) : (s.movePointer a).cm = s.cm := rfl
@[simp] theorem movePointer_io (a : ASrc) : (s.movePointer a).io = s.io := rfl
@[simp] theorem movePointer_env (a : ASrc) : (s.movePointer a).env = s.env := rfl
@[simp] theorem movePointer_free (a : ASrc) : (s.movePointer a).free = s.free := rfl
@[simp] theorem movePointer_x (a : ASrc) (m : RegNum) : (s.movePointer a).x m = s.x m := rfl
@[simp] theorem movePointer_aux (a : ASrc) (m : ArNum) : (s.movePointer a).aux m = s.aux m := rfl
@[simp] theorem movePointer_carry (a : ASrc) : (s.movePointer a).carry = s.carry := rfl
@[simp] theorem movePointer_pedm (a : ASrc) : (s.movePointer a).pedm = s.pedm := rfl
@[simp] theorem movePointer_dmpi (a : ASrc) : (s.movePointer a).dmpi = s.dmpi := rfl
@[simp] theorem movePointer_dmRead (a : ASrc) (l : Byte) (b : Addr) : (s.movePointer a).dmRead l b = s.dmRead l b := rfl
@[simp] theorem movePointer_cmRead (a : ASrc) (b : Addr) : (s.movePointer a).cmRead b = s.cmRead b := rfl
@[simp] theorem movePointer_nextPc (a : ASrc) : (s.movePointer a).nextPc = s.nextPc := rfl

/-! ### branch -/

@[simp] theorem branch_r (cond : Bool) (x : BitVec 10) : (s.branch cond x).r = s.r := rfl
@[simp] theorem branch_ph (cond : Bool) (x : BitVec 10) : (s.branch cond x).ph = s.ph := rfl
@[simp] theorem branch_pl (cond : Bool) (x : BitVec 10) : (s.branch cond x).pl = s.pl := rfl
@[simp] theorem branch_ch (cond : Bool) (x : BitVec 10) : (s.branch cond x).ch = s.ch := rfl
@[simp] theorem branch_cl (cond : Bool) (x : BitVec 10) : (s.branch cond x).cl = s.cl := rfl
@[simp] theorem branch_dum (cond : Bool) (x : BitVec 10) : (s.branch cond x).dum = s.dum := rfl
@[simp] theorem branch_k (cond : Bool) (x : BitVec 10) : (s.branch cond x).k = s.k := rfl
@[simp] theorem branch_ab (cond : Bool) (x : BitVec 10) : (s.branch cond x).ab = s.ab := rfl
@[simp] theorem branch_sl (cond : Bool) (x : BitVec 10) : (s.branch cond x).sl = s.sl := rfl
@[simp] theorem branch_sh (cond : Bool) (x : BitVec 10) : (s.branch cond x).sh = s.sh := rfl
@[simp] theorem branch_ar (cond : Bool) (x : BitVec 10) : (s.branch cond x).ar = s.ar := rfl
@[simp] theorem branch_stack (cond : Bool) (x : BitVec 10) : (s.branch cond x).stack = s.stack := rfl
@[simp] theorem branch_dm (cond : Bool) (x : BitVec 10) : (s.branch cond x).dm = s.dm := rfl
@[simp] theorem branch_cm (cond : Bool) (x : BitVec 10) : (s.branch cond x).cm = s.cm := rfl
@[simp] theorem branch_io (cond : Bool) (x : BitVec 10) : (s.branch cond x).io = s.io := rfl
@[simp] theorem branch_env (cond : Bool) (x : BitVec 10) : (s.branch cond x).env = s.env := rfl
@[simp] theorem branch_free (cond : Bool) (x : BitVec 10) : (s.branch cond x).free = s.free := rfl
@[simp] theorem branch_x (cond : Bool) (x : BitVec 10) (m : RegNum) : (s.branch cond x).x m = s.x m := rfl
@[simp] theorem branch_aux (cond : Bool) (x : BitVec 10) (m : ArNum) : (s.branch cond x).aux m = s.aux m := rfl
@[simp] theorem branch_phpl (cond : Bool) (x : BitVec 10) : (s.branch cond x).phpl = s.phpl := rfl
@[simp] theorem branch_carry (cond : Bool) (x : BitVec 10) : (s.branch cond x).carry = s.carry := rfl
@[simp] theorem branch_pedm (cond : Bool) (x : BitVec 10) : (s.branch cond x).pedm = s.pedm := rfl
@[simp] theorem branch_dmpi (cond : Bool) (x : BitVec 10) : (s.branch cond x).dmpi = s.dmpi := rfl
@[simp] theorem branch_dmRead (cond : Bool) (x : BitVec 10) (l : Byte) (b : Addr) : (s.branch cond x).dmRead l b = s.dmRead l b := rfl
@[simp] theorem branch_cmRead (cond : Bool) (x : BitVec 10) (b : Addr) : (s.branch cond x).cmRead b = s.cmRead b := rfl

/-! ### writeC -/

@[simp] theorem writeC_ch (d : Dest) (v : Byte) : (s.writeC d v).ch = s.ch := by cases d <;> rfl
@[simp] theorem writeC_cl (d : Dest) (v : Byte) : (s.writeC d v).cl = s.cl := by cases d <;> rfl
@[simp] theorem writeC_ab (d : Dest) (v : Byte) : (s.writeC d v).ab = s.ab := by cases d <;> rfl
@[simp] theorem writeC_ar (d : Dest) (v : Byte) : (s.writeC d v).ar = s.ar := by cases d <;> rfl
@[simp] theorem writeC_pc (d : Dest) (v : Byte) : (s.writeC d v).pc = s.pc := by cases d <;> rfl
@[simp] theorem writeC_stack (d : Dest) (v : Byte) : (s.writeC d v).stack = s.stack := by cases d <;> rfl
@[simp] theorem writeC_dm (d : Dest) (v : Byte) : (s.writeC d v).dm = s.dm := by cases d <;> rfl
@[simp] theorem writeC_cm (d : Dest) (v : Byte) : (s.writeC d v).cm = s.cm := by cases d <;> rfl
@[simp] theorem writeC_io (d : Dest) (v : Byte) : (s.writeC d v).io = s.io := by cases d <;> rfl
@[simp] theorem writeC_env (d : Dest) (v : Byte) : (s.writeC d v).env = s.env := by cases d <;> rfl
@[simp] theorem writeC_free (d : Dest) (v : Byte) : (s.writeC d v).free = s.free := by cases d <;> rfl
@[simp] theorem writeC_aux (d : Dest) (v : Byte) (m : ArNum) : (s.writeC d v).aux m = s.aux m := by
  simp only [State.aux, writeC_ar]
@[simp] theorem writeC_dmRead (d : Dest) (v : Byte) (l : Byte) (b : Addr) : (s.writeC d v).dmRead l b = s.dmRead l b := by
  simp only [State.dmRead, writeC_dm]
@[simp] theorem writeC_cmRead (d : Dest) (v : Byte) (b : Addr) : (s.writeC d v).cmRead b = s.cmRead b := by
  simp only [State.cmRead, writeC_cm]
@[simp] theorem writeC_nextPc (d : Dest) (v : Byte)  : (s.writeC d v).nextPc  = s.nextPc  := by
  simp only [State.nextPc, writeC_pc]

/-! ### cmWrite -/

@[simp] theorem cmWrite_r (a : Addr) (w : CWord) : (s.cmWrite a w).r = s.r := by
  unfold State.cmWrite; split <;> rfl
@[simp] theorem cmWrite_ph (a : Addr) (w : CWord) : (s.cmWrite a w).ph = s.ph := by
  unfold State.cmWrite; split <;> rfl
@[simp] theorem cmWrite_pl (a : Addr) (w : CWord) : (s.cmWrite a w).pl = s.pl := by
  unfold State.cmWrite; split <;> rfl
@[simp] theorem cmWrite_ch (a : Addr) (w : CWord) : (s.cmWrite a w).ch = s.ch := by
  unfold State.cmWrite; split <;> rfl
@[simp] theorem cmWrite_cl (a : Addr) (w : CWord) : (s.cmWrite a w).cl = s.cl := by
  unfold State.cmWrite; split <;> rfl
@[simp] theorem cmWrite_dum (a : Addr) (w : CWord) : (s.cmWrite a w).dum = s.dum := by
  unfold State.cmWrite; split <;> rfl
@[simp] theorem cmWrite_k (a : Addr) (w : CWord) : (s.cmWrite a w).k = s.k := by
  unfold State.cmWrite; split <;> rfl
@[simp] theorem cmWrite_ab (a : Addr) (w : CWord) : (s.cmWrite a w).ab = s.ab := by
  unfold State.cmWrite; split <;> rfl
@[simp] theorem cmWrite_sl (a : Addr) (w : CWord) : (s.cmWrite a w).sl = s.sl := by
  unfold State.cmWrite; split <;> rfl
@[simp] theorem cmWrite_sh (a : Addr) (w : CWord) : (s.cmWrite a w).sh = s.sh := by
  unfold State.cmWrite; split <;> rfl
@[simp] theorem cmWrite_ar (a : Addr) (w : CWord) : (s.cmWrite a w).ar = s.ar := by
  unfold State.cmWrite; split <;> rfl
@[simp] theorem cmWrite_pc (a : Addr) (w : CWord) : (s.cmWrite a w).pc = s.pc := by
  unfold State.cmWrite; split <;> rfl
@[simp] theorem cmWrite_stack (a : Addr) (w : CWord) : (s.cmWrite a w).stack = s.stack := by
  unfold State.cmWrite; split <;> rfl
@[simp] theorem cmWrite_dm (a : Addr) (w : CWord) : (s.cmWrite a w).dm = s.dm := by
  unfold State.cmWrite; split <;> rfl
@[simp] theorem cmWrite_io (a : Addr) (w : CWord) : (s.cmWrite a w).io = s.io := by
  unfold State.cmWrite; split <;> rfl
@[simp] theorem cmWrite_env (a : Addr) (w : CWord) : (s.cmWrite a w).env = s.env := by
  unfold State.cmWrite; split <;> rfl
@[simp] theorem cmWrite_free (a : Addr) (w : CWord) : (s.cmWrite a w).free = s.free := by
  unfold State.cmWrite; split <;> rfl
@[simp] theorem cmWrite_x (a : Addr) (w : CWord) (m : RegNum) : (s.cmWrite a w).x m = s.x m := by
  simp only [State.x, cmWrite_r]
@[simp] theorem cmWrite_aux (a : Addr) (w : CWord) (m : ArNum) : (s.cmWrite a w).aux m = s.aux m := by
  simp only [State.aux, cmWrite_ar]
@[simp] theorem cmWrite_phpl (a : Addr) (w : CWord)  : (s.cmWrite a w).phpl  = s.phpl  := by
  simp only [State.phpl, cmWrite_ph, cmWrite_pl]
@[simp] theorem cmWrite_carry (a : Addr) (w : CWord)  : (s.cmWrite a w).carry  = s.carry  := by
  simp only [State.carry, cmWrite_sh]
@[simp] theorem cmWrite_pedm (a : Addr) (w : CWord)  : (s.cmWrite a w).pedm  = s.pedm  := by
  simp only [State.pedm, cmWrite_sh]
@[simp] theorem cmWrite_dmpi (a : Addr) (w : CWord)  : (s.cmWrite a w).dmpi  = s.dmpi  := by
  simp only [State.dmpi, cmWrite_sh]
@[simp] theorem cmWrite_dmRead (a : Addr) (w : CWord) (l : Byte) (b : Addr) : (s.cmWrite a w).dmRead l b = s.dmRead l b := by
  simp only [State.dmRead, cmWrite_dm]
@[simp] theorem cmWrite_nextPc (a : Addr) (w : CWord)  : (s.cmWrite a w).nextPc  = s.nextPc  := by
  simp only [State.nextPc, cmWrite_pc]
/-! ### What each operation does -/

@[simp] theorem dmOp_none (w : Byte) (ma : Addr) (v : Byte) : s.dmOp .none w ma v = s := rfl

@[simp] theorem readFlagged_none (w : Byte) (ma : Addr) : readFlagged .none w ma = false := rfl
@[simp] theorem readFlagged_w1 (w : Byte) (ma : Addr) : readFlagged .w1 w ma = false := rfl
@[simp] theorem readFlagged_w2 (w : Byte) (ma : Addr) : readFlagged .w2 w ma = false := rfl
@[simp] theorem readFlagged_rd (w : Byte) (ma : Addr) : readFlagged .rd w ma = !dmPresent w ma := rfl

/-- SH after a Data Memory operation: bit 6 is set by a flagged read, nothing else changes (R303). -/
@[simp] theorem dmOp_sh (mm : MemOp) (w : Byte) (ma : Addr) (v : Byte) :
    (s.dmOp mm w ma v).sh = if readFlagged mm w ma then setBit s.sh 6 true else s.sh := by
  cases mm
  · simp
  · simp only [State.dmOp, readFlagged_rd]
    by_cases h : dmPresent w ma = true <;> simp [h]
  · simp [State.dmOp]
  · simp [State.dmOp]

@[simp] theorem dmOp_carry (mm : MemOp) (w : Byte) (ma : Addr) (v : Byte) :
    (s.dmOp mm w ma v).carry = s.carry := by
  simp only [State.carry, dmOp_sh]
  split <;> simp

@[simp] theorem dmOp_dmpi (mm : MemOp) (w : Byte) (ma : Addr) (v : Byte) :
    (s.dmOp mm w ma v).dmpi = s.dmpi := by
  simp only [State.dmpi, dmOp_sh]
  split <;> simp

/-- Data Memory after an operation: one byte written, if the operation writes and the byte is
present (R66, R67, R72). -/
theorem dmOp_dm (mm : MemOp) (w : Byte) (ma : Addr) (v : Byte) :
    (s.dmOp mm w ma v).dm = match memTarget mm ma with
      | none => s.dm
      | some p => if dmPresent w p then Memory.set s.dm (physAddr w p) v else s.dm := by
  cases mm
  · rfl
  · simp only [State.dmOp, memTarget]
    split <;> rfl
  · simp only [State.dmOp, memTarget, State.dmWrite]
    split <;> simp
  · simp only [State.dmOp, memTarget, State.dmWrite]
    split <;> simp

/-- CH and CL after a read of memory that is present (R64). -/
theorem dmOp_rd_present {w : Byte} {ma : Addr} (v : Byte) (h : dmPresent w ma = true) :
    s.dmOp .rd w ma v = s.setChCl (s.dmRead w ma) (s.dmRead w (otherByte ma)) := by
  simp [State.dmOp, h]

/-- A read of absent memory (R72, R303). -/
theorem dmOp_rd_absent {w : Byte} {ma : Addr} (v : Byte) (h : dmPresent w ma = false) :
    s.dmOp .rd w ma v = s.chClFree.setShBit 6 true := by
  simp [State.dmOp, h]

/-- Where the program counter goes at the end of an instruction (R303). -/
@[simp] theorem finish_pc (mm : MemOp) (w : Byte) (ma next : Addr) :
    (s.finish mm w ma next).pc =
      if readFlagged mm w ma && !s.dmpi then Config.pedmVector else next := by
  unfold State.finish State.takeVector
  split <;> simp

@[simp] theorem branch_pc (cond : Bool) (x : BitVec 10) :
    (s.branch cond x).pc = if cond then s.pageTarget x else s.nextPc := rfl

@[simp] theorem movePointer_phpl' (a : ASrc) : (s.movePointer a).phpl = s.phpl + moveOf a := by
  simp [State.movePointer]

theorem movePointer_of_not_moves {a : ASrc} (h : movesPointer a = false) :
    s.movePointer a = s := by
  cases a <;> simp_all [movesPointer, State.movePointer, moveOf]

/-- The carry after the carry control (R98, R182). -/
@[simp] theorem carryControl_carry (cc : CarryCtl) : (s.carryControl cc).carry =
    match cc with | .asIs => s.carry | .asIsAlt => s.carry | .clear => false | .set => true := by
  cases cc <;> simp [State.carryControl]

/-- The carry control changes bit 0 of SH and no other. -/
theorem carryControl_sh_bit (cc : CarryCtl) {i : Nat} (h : i ≠ 0) :
    (s.carryControl cc).sh.getLsbD i = s.sh.getLsbD i := by
  cases cc <;> simp [State.carryControl, setBit_getLsbD, h]

@[simp] theorem carryOut_carry (c : Option Bool) : (s.carryOut c).carry = c.getD s.carry := by
  cases c <;> simp [State.carryOut]

/-- The carry out changes bit 0 of SH and no other. -/
theorem carryOut_sh_bit (c : Option Bool) {i : Nat} (h : i ≠ 0) :
    (s.carryOut c).sh.getLsbD i = s.sh.getLsbD i := by
  cases c <;> simp [State.carryOut, setBit_getLsbD, h]

@[simp] theorem writeC_dum (d : Dest) (v : Byte) : (s.writeC d v).dum = v := by
  cases d <;> rfl

/-- The general registers after a write to a destination (R103). -/
@[simp] theorem writeC_x (d : Dest) (v : Byte) (m : RegNum) :
    (s.writeC d v).x m = if d = .r m then v else s.x m := by
  cases d <;> simp [State.writeC]

@[simp] theorem writeC_ph (d : Dest) (v : Byte) :
    (s.writeC d v).ph = if d = .ph then v else s.ph := by cases d <;> rfl
@[simp] theorem writeC_pl (d : Dest) (v : Byte) :
    (s.writeC d v).pl = if d = .pl then v else s.pl := by cases d <;> rfl
@[simp] theorem writeC_sl (d : Dest) (v : Byte) :
    (s.writeC d v).sl = if d = .sl then v else s.sl := by cases d <;> rfl
@[simp] theorem writeC_k (d : Dest) (v : Byte) :
    (s.writeC d v).k = if d = .k then v else s.k := by cases d <;> rfl
@[simp] theorem writeC_sh (d : Dest) (v : Byte) :
    (s.writeC d v).sh = if d = .sh then shAfterWrite s.sh v else s.sh := by cases d <;> rfl

/-- A Control Memory read after a write (R75, R81). -/
theorem cmWrite_cmRead (h : Memory.wf s.cm) (a b : Addr) (w : CWord) :
    (s.cmWrite a w).cmRead b = if Config.cmWritable a ∧ a = b then w else s.cmRead b := by
  unfold State.cmWrite
  by_cases hw : Config.cmWritable a = true
  · simp only [hw, if_true, setCm_cmRead, memory_get_set h, true_and]
    simp only [State.cmRead]
    by_cases hab : a = b
    · subst hab; simp
    · have : a.toNat ≠ b.toNat := fun h => hab (BitVec.eq_of_toNat_eq h)
      simp [this, hab]
  · simp [hw]

/-- A word that may not be written keeps its value. -/
theorem cmWrite_cmRead_prom {b : Addr} (hb : Config.cmWritable b = false) (a : Addr) (w : CWord) :
    (s.cmWrite a w).cmRead b = s.cmRead b := by
  unfold State.cmWrite
  split
  · have hab : a ≠ b := fun h => by simp_all
    have : a.toNat ≠ b.toNat := fun h => hab (BitVec.eq_of_toNat_eq h)
    simp [State.cmRead, memory_get_set_ne _ _ this]
  · rfl

/-- Below $2000 every access is in bank 0 (R63). -/
theorem bankFor_of_lt (w : Byte) {a : Addr} (h : a.toNat < 0x2000) : bankFor w a = 0 := by
  simp [bankFor, h]

/-- From $2000 up an access is in the bank SL selects (R63). -/
theorem bankFor_of_not_lt (w : Byte) {a : Addr} (h : ¬a.toNat < 0x2000) :
    bankFor w a = (Config.bankOfSl w).val := by
  simp [bankFor, h]

/-- The number of the word of an address (R61). -/
theorem wordNumber_eq (a : Addr) : a.extractLsb' 1 15 = BitVec.ofNat 15 (a.toNat / 2) := by
  apply BitVec.eq_of_toNat_eq
  simp [BitVec.extractLsb'_toNat, Nat.shiftRight_eq_div_pow]

/-- Both bytes of a word are in the same word of Data Memory (R61, R63). -/
theorem otherByte_word (a : Addr) : (otherByte a).extractLsb' 1 15 = a.extractLsb' 1 15 := by
  ext i hi
  simp [otherByte]

theorem otherByte_toNat (a : Addr) : (otherByte a).toNat / 2 = a.toNat / 2 := by
  have h := congrArg BitVec.toNat (otherByte_word a)
  simp only [BitVec.extractLsb'_toNat, Nat.shiftRight_eq_div_pow] at h
  have h1 := (otherByte a).isLt
  have h2 := a.isLt
  omega

@[simp] theorem bankFor_otherByte (w : Byte) (a : Addr) : bankFor w (otherByte a) = bankFor w a := by
  have h := otherByte_toNat a
  unfold bankFor
  have : (otherByte a).toNat < 0x2000 ↔ a.toNat < 0x2000 := by omega
  simp only [this]

@[simp] theorem dmPresent_otherByte (w : Byte) (a : Addr) :
    dmPresent w (otherByte a) = dmPresent w a := by
  simp [dmPresent, otherByte_word]

end Sys2Proof.Machine
end

