-- ==== Sys2Proof/Laws/Effects.lean ====
section
/-! SUPPORT. What each shared operation does, said once: the effect of the Data Memory operation, of an
8-bit and a 16-bit ALU instruction, of an instruction of the stack and auxiliary group, of a branch. -/

namespace Sys2Proof.Machine

/-! ## The Data Memory operation -/

@[simp] theorem dmPresent_eq_of_word {w : Byte} {ma p : Addr} {mm : MemOp}
    (h : memTarget mm ma = some p) : dmPresent w p = dmPresent w ma := by
  cases mm <;> simp [memTarget] at h
  · rw [← h]
  · rw [← h, dmPresent_otherByte]

/-- SH bit 6 after a Data Memory operation (R303). -/
theorem dmOp_pedm (u : State) (mm : MemOp) (w : Byte) (ma : Addr) (v : Byte) :
    (u.dmOp mm w ma v).pedm = (readFlagged mm w ma || u.pedm) := by
  simp only [State.pedm, dmOp_sh]
  split <;> simp_all

/-- The bits of SH that a Data Memory operation leaves alone. -/
theorem dmOp_sh_bit (u : State) (mm : MemOp) (w : Byte) (ma : Addr) (v : Byte) {n : Nat}
    (h : n ≠ 6) : (u.dmOp mm w ma v).sh.getLsbD n = u.sh.getLsbD n := by
  simp only [dmOp_sh]
  split
  · rw [setBit_getLsbD, if_neg h]
  · rfl

/-- Two addresses with the same key are the same address, in one bank selection. -/
theorem physAddr_inj {w : Byte} {a b : Addr} (h : physAddr w a = physAddr w b) : a = b := by
  have ha := a.isLt
  have hb := b.isLt
  unfold physAddr at h
  exact BitVec.eq_of_toNat_eq (by omega)

/-- The operation on a state `u` that agrees with `s` on Data Memory, CH and CL has the effect the
spec gives it, seen from `s`, in every state `t` that agrees with its result. -/
theorem memEffect_of_dmOp {s u t : State} {mm : MemOp} {ma : Addr} {v : Byte}
    (hdm : u.dm = s.dm) (hch : u.ch = s.ch) (hcl : u.cl = s.cl)
    (tdm : t.dm = (u.dmOp mm s.sl ma v).dm) (tch : t.ch = (u.dmOp mm s.sl ma v).ch)
    (tcl : t.cl = (u.dmOp mm s.sl ma v).cl) (tpedm : t.pedm = (u.dmOp mm s.sl ma v).pedm) :
    MemEffect s t mm ma v := by
  have hread : ∀ a, u.dmRead s.sl a = s.dmRead s.sl a := fun a => by simp [State.dmRead, hdm]
  have tread : ∀ a, t.dmRead s.sl a = (u.dmOp mm s.sl ma v).dmRead s.sl a := fun a => by
    simp [State.dmRead, tdm]
  refine ⟨?_, ?_, ?_, ?_, ?_, ?_⟩
  · rintro rfl
    split
    · rename_i h
      rw [tch, tcl, dmOp_rd_present u v h]
      simp [hread]
    · rename_i h
      rw [tpedm, dmOp_pedm]
      simp [h]
  · rintro rfl
    simp [tch, tcl, hch, hcl]
  · intro hw
    have hc : (u.dmOp mm s.sl ma v).ch = (u.chClAfterWrite s.sl ma).ch ∧
        (u.dmOp mm s.sl ma v).cl = (u.chClAfterWrite s.sl ma).cl := by
      cases mm <;> simp [memWrites] at hw <;> simp [State.dmOp]
    rw [tch, tcl, hc.1, hc.2]
    unfold State.chClAfterWrite
    cases Config.chclAfterWrite
    · exact ⟨hch, hcl⟩
    · show if _ then _ else _
      split
      · rename_i h
        simp [hread]
      · trivial
    · trivial
  · intro p hp hwf
    rw [tread, State.dmRead, dmOp_dm, hp]
    show Memory.get (if _ then _ else _) _ = _
    split
    · rw [hdm, memory_get_set hwf, if_pos rfl]
    · rw [hdm]; rfl
  · intro p hp k hk
    rw [tdm, dmOp_dm, hp]
    show Memory.get (if _ then _ else _) _ = _
    split
    · rw [hdm, memory_get_set_ne _ _ (Ne.symm hk)]
    · rw [hdm]
  · intro hn k
    rw [tdm, dmOp_dm, hn]
    show Memory.get u.dm k = _
    rw [hdm]

/-- An instruction without a Data Memory operation. -/
theorem memEffect_none {s t : State} {ma : Addr} {v : Byte} (hdm : t.dm = s.dm)
    (hch : t.ch = s.ch) (hcl : t.cl = s.cl) : MemEffect s t .none ma v :=
  ⟨by simp, fun _ => ⟨hch, hcl⟩, by simp [memWrites], by simp [memTarget], by simp [memTarget],
    fun _ k => by rw [hdm]⟩

/-- Where pc ends, in the statements' words. -/
theorem finish_pcAfter (s u : State) (mm : MemOp) (ma next : Addr) :
    (u.finish mm s.sl ma next).pc = pcAfter s (u.finish mm s.sl ma next) mm ma next := by
  rw [finish_pc, pcAfter, finish_dmpi]
  cases readFlagged mm s.sl ma <;> cases u.dmpi <;> simp

/-! ## The carry control and the operands -/

/-- The carry the operation reads. -/
theorem carryControl_carryIn (s : State) (cc : CarryCtl) :
    (s.carryControl cc).carry = carryIn cc s := by
  rw [carryControl_carry]
  cases cc <;> rfl

/-- The A value does not depend on the carry control. -/
@[simp] theorem readA_carryControl (s : State) (cc : CarryCtl) (a : ASrc) :
    readA a (s.carryControl cc) = readA a s := by
  cases a <;> simp [readA]

theorem setBit_self (v : Byte) : setBit v 0 (v.getLsbD 0) = v := by
  apply BitVec.eq_of_getLsbD_eq
  intro i hi
  rw [setBit_getLsbD]
  split
  · rename_i h
    subst h
    simp
  · rfl

/-- The B value after the carry control (R181 (c)). -/
theorem readB_carryControl (s : State) (cc : CarryCtl) (b : BSrc) :
    readB b (s.carryControl cc) = bValue cc b s := by
  cases b <;> simp [readB, bValue]
  cases cc
  · exact (setBit_self s.sh).symm
  · exact (setBit_self s.sh).symm
  · rfl
  · rfl

theorem bValue_asIs (b : BSrc) (s : State) : bValue .asIs b s = readB b s :=
  (readB_carryControl s .asIs b).symm

/-! ## The 8-bit ALU forms -/

/-- The destination after `writeC`, a carry out that SH does not collide with, and steps that leave
the registers alone. -/
theorem destHolds_of {t u : State} {d : Dest} {v : Byte} (hd : d.isLegal = true)
    (hr : ∀ n, t.x n = (u.writeC d v).x n) (hpl : d = .pl → t.pl = v) (hph : d = .ph → t.ph = v)
    (hsl : t.sl = (u.writeC d v).sl) (hk : t.k = (u.writeC d v).k)
    (hsh : d = .sh → ∀ n, n ≠ 6 → t.sh.getLsbD n = (shAfterWrite u.sh v).getLsbD n) :
    t.destHolds d v := by
  cases d with
  | r n => simp [State.destHolds, hr]
  | pl => exact hpl rfl
  | ph => exact hph rfl
  | illegalA => cases hd
  | illegalB => cases hd
  | sl => simp [State.destHolds, hsl]
  | sh =>
    obtain ⟨h0, h1, -, -, -, -, -, h7⟩ := shAfterWrite_bits u.sh v
    exact ⟨(hsh rfl 0 (by decide)).trans h0, (hsh rfl 1 (by decide)).trans h1,
      (hsh rfl 7 (by decide)).trans h7⟩
  | k => simp [State.destHolds, hk]
  | dum => trivial

/-- SH after the write of the result and of the carry. -/
theorem writeC_carryOut_sh_bit (u : State) (d : Dest) (v : Byte) (c : Option Bool) {n : Nat}
    (hd : d ≠ .sh) (hn : n ≠ 0) :
    ((u.writeC d v).carryOut c).sh.getLsbD n = u.sh.getLsbD n := by
  rw [carryOut_sh_bit _ _ hn, writeC_sh, if_neg hd]

/-- What `RA8` and `IM8` share: the result and the carry are written, the Data Memory operation is
done, the pointer moves, pc is set; `u` is `s` but for the carry bit. -/
theorem alu8Effect_of {s u t : State} {mm : MemOp} {d : Dest} {a : ASrc} {r : Byte}
    {c : Option Bool} (cc : CarryCtl) (hu : u = s.carryControl cc)
    (ht : t = ((((u.writeC d r).carryOut c).dmOp mm s.sl s.phpl r).movePointer a).finish
      mm s.sl s.phpl s.nextPc)
    (hd : d.isLegal = true) (hp : ¬(isPointer d = true ∧ movesPointer a = true))
    (hc : d = .sh → c = none) : Alu8Effect s t mm d (moveOf a) r := by
  have hsh : ∀ n, n ≠ 6 → t.sh.getLsbD n = ((u.writeC d r).carryOut c).sh.getLsbD n := by
    intro n hn
    rw [ht, finish_sh, movePointer_sh, dmOp_sh_bit _ _ _ _ _ hn]
  have hpedm : t.pedm = (readFlagged mm s.sl s.phpl || ((u.writeC d r).carryOut c).pedm) := by
    rw [ht, finish_pedm, movePointer_pedm, dmOp_pedm]
  have ush : ∀ n, n ≠ 0 → u.sh.getLsbD n = s.sh.getLsbD n := fun n hn => by
    rw [hu, carryControl_sh_bit _ _ hn]
  have hpoint : isPointer d = true → t.ph = (u.writeC d r).ph ∧ t.pl = (u.writeC d r).pl := by
    intro h
    have hm : movesPointer a = false := by
      cases hma : movesPointer a
      · rfl
      · exact absurd ⟨h, hma⟩ hp
    rw [ht, finish_ph, finish_pl, movePointer_of_not_moves _ hm]
    simp
  have hmem : MemEffect s t mm s.phpl r := by
    refine memEffect_of_dmOp (u := (u.writeC d r).carryOut c) ?_ ?_ ?_ ?_ ?_ ?_ ?_ <;>
      simp [ht, hu]
  constructor
  · simp [ht]
  · refine destHolds_of (u := u) hd (fun n => by simp [ht]) ?_ ?_ (by simp [ht]) (by simp [ht]) ?_
    · rintro rfl
      simpa using (hpoint rfl).2
    · rintro rfl
      simpa using (hpoint rfl).1
    · intro hds n hn
      rw [hsh n hn, hc hds]
      simp [State.carryOut, hds]
  · intro n hn
    simp [ht, hu, hn]
  · intro h
    simp [ht, hu, h]
  · intro h
    simp [ht, hu, h]
  · intro h
    have h1 : d ≠ .ph := fun e => by simp [e, isPointer] at h
    have h2 : d ≠ .pl := fun e => by simp [e, isPointer] at h
    rw [ht, finish_phpl, movePointer_phpl', dmOp_phpl, carryOut_phpl]
    simp [State.phpl, h1, h2, hu]
  · rintro rfl
    rw [(hpoint rfl).1]
    simp [hu]
  · rintro rfl
    rw [(hpoint rfl).2]
    simp [hu]
  · intro hds n h0 h6
    rw [hsh n h6, writeC_carryOut_sh_bit _ _ _ _ hds h0, ush n h0]
  · intro hds n h2 h5
    rw [hsh n (by omega), hc hds]
    obtain ⟨-, -, b2, b3, b4, b5, -, -⟩ := shAfterWrite_bits u.sh r
    simp only [State.carryOut, hds, writeC_sh, if_true]
    have : n = 2 ∨ n = 3 ∨ n = 4 ∨ n = 5 := by omega
    rcases this with rfl | rfl | rfl | rfl
    · rw [b2, ush _ (by decide)]
    · rw [b3, ush _ (by decide)]
    · rw [b4, ush _ (by decide)]
    · rw [b5, ush _ (by decide)]
  · intro hds
    rw [hpedm, pedmAfter, State.pedm, writeC_carryOut_sh_bit _ _ _ _ hds (by decide),
      ush _ (by decide)]
    rfl
  · intro hds
    rw [hpedm, hc hds]
    obtain ⟨-, -, -, -, -, -, b6, -⟩ := shAfterWrite_bits u.sh r
    simp only [State.pedm, State.carryOut, hds, writeC_sh, if_true]
    rw [b6, ush _ (by decide), Bool.and_comm]
  · exact hmem
  · rw [ht, finish_pcAfter]
    rfl
  · simp [ht, hu]
  · simp [ht, hu]
  · simp [ht, hu]
  · simp [ht, hu]
  · simp [ht, hu]
  · simp [ht, hu]

/-- A function of the ALU that gives a carry exactly when `producesCarry` says so. -/
def givesCarry (f : AluFn) (producesCarry : Bool) : Prop :=
  ∀ a b c, (f a b c).2.isSome = producesCarry

theorem givesCarry_none {f : AluFn} (h : givesCarry f false) (a b : Byte) (c : Bool) :
    (f a b c).2 = none := by simpa using h a b c

/-- An 8-bit Register ALU instruction answers a next state exactly in the forms the spec executes. -/
theorem regAlu_next_iff {f : AluFn} {pc : Bool} {cc : CarryCtl} {mm : MemOp} {d : Dest} {a : ASrc}
    {b : BSrc} {s t : State} : regAlu f pc cc mm d a b s = .next t ↔
      runs8 pc d a ∧ t = (s.carryControl cc).runReg8 f mm d a b := by
  have hcoll : (pc && d == .sh) = true ↔ pc = true ∧ d = .sh := by simp
  unfold regAlu runs8
  by_cases h1 : d.isLegal = true
  · by_cases h2 : isPointer d = true ∧ movesPointer a = true
    · simp [h1, h2]
    · by_cases h3 : pc = true ∧ d = .sh
      · obtain ⟨rfl, rfl⟩ := h3
        simp [isPointer, Dest.isLegal]
      · have h2' : (isPointer d && movesPointer a) = false := by
          simpa using h2
        have h3' : (pc && d == .sh) = false := by
          cases hh : (pc && d == .sh)
          · rfl
          · exact absurd (hcoll.mp hh) h3
        simp only [h1, h2', h3', h2, h3]
        simp [eq_comm]
  · simp [h1]

/-- What an 8-bit Register ALU instruction does when it answers a next state. -/
theorem regAlu_effect {f : AluFn} {pc : Bool} {cc : CarryCtl} {mm : MemOp} {d : Dest} {a : ASrc}
    {b : BSrc} {s t : State} (hf : givesCarry f pc) (h : regAlu f pc cc mm d a b s = .next t) :
    Alu8Effect s t mm d (moveOf a) (f (readA a s) (bValue cc b s) (carryIn cc s)).1 ∧
      (d ≠ .sh → t.carry =
        (f (readA a s) (bValue cc b s) (carryIn cc s)).2.getD (carryIn cc s)) := by
  obtain ⟨⟨hd, hp, hc⟩, ht⟩ := regAlu_next_iff.mp h
  simp only [State.runReg8, readA_carryControl, readB_carryControl, carryControl_carryIn] at ht
  refine ⟨alu8Effect_of cc rfl (by simpa using ht) hd hp fun hds => ?_, fun hds => ?_⟩
  · cases pc
    · exact givesCarry_none hf _ _ _
    · exact absurd ⟨rfl, hds⟩ hc
  · rw [ht]
    simp only [finish_carry, movePointer_carry, dmOp_carry, carryOut_carry]
    congr 1
    rw [State.carry, writeC_sh, if_neg hds]
    exact carryControl_carryIn s cc

/-- An Immediate ALU instruction answers a next state exactly in the forms the spec executes. -/
theorem immAlu_next_iff {f : AluFn} {pc : Bool} {mm : MemOp} {d : Dest} {imm : Byte} {b : BSrc}
    {s t : State} : immAlu f pc mm d imm b s = .next t ↔
      runsImm pc d ∧ t = s.runImm f mm d imm b := by
  have hcoll : (pc && d == .sh) = true ↔ pc = true ∧ d = .sh := by simp
  unfold immAlu runsImm
  by_cases h1 : d.isLegal = true
  · by_cases h3 : pc = true ∧ d = .sh
    · obtain ⟨rfl, rfl⟩ := h3
      simp [Dest.isLegal]
    · have h3' : (pc && d == .sh) = false := by
        cases hh : (pc && d == .sh)
        · rfl
        · exact absurd (hcoll.mp hh) h3
      simp only [h1, h3', h3]
      simp [eq_comm]
  · simp [h1]

/-- What an Immediate ALU instruction does when it answers a next state. -/
theorem immAlu_effect {f : AluFn} {pc : Bool} {mm : MemOp} {d : Dest} {imm : Byte} {b : BSrc}
    {s t : State} (hf : givesCarry f pc) (h : immAlu f pc mm d imm b s = .next t) :
    Alu8Effect s t mm d 0 (f imm (readB b s) s.carry).1 ∧
      (d ≠ .sh → t.carry = (f imm (readB b s) s.carry).2.getD s.carry) := by
  obtain ⟨⟨hd, hc⟩, ht⟩ := immAlu_next_iff.mp h
  simp only [State.runImm] at ht
  have hmove : moveOf (.r 0) = 0 := rfl
  refine ⟨?_, fun hds => ?_⟩
  · rw [← hmove]
    refine alu8Effect_of (a := .r 0) (c := (f imm (readB b s) s.carry).2) .asIs rfl ?_ hd (by simp [movesPointer]) fun hds => ?_
    · exact ht.trans (by rw [movePointer_of_not_moves _ rfl]; rfl)
    · cases pc
      · exact givesCarry_none hf _ _ _
      · exact absurd ⟨rfl, hds⟩ hc
  · rw [ht]
    simp only [finish_carry, dmOp_carry, carryOut_carry]
    congr 1
    rw [State.carry, writeC_sh, if_neg hds]
    rfl

/-! ## The 16-bit ALU forms -/

@[simp] theorem pairD_pairLow (p : Fin 7) : pairD (.r (pairLow p)) = some p := by
  revert p; decide

@[simp] theorem pairA_pairLow (p : Fin 7) : pairA (.r (pairLow p)) = some p := by
  revert p; decide

@[simp] theorem pairB_pairLow (p : Fin 7) : pairB (.r (pairLow p)) = some p := by
  revert p; decide

theorem pairLow_ne_pairHigh (p : Fin 7) : pairLow p ≠ pairHigh p := by revert p; decide

theorem pairD_eq_some {d : Dest} {p : Fin 7} : pairD d = some p ↔ d = .r (pairLow p) := by
  constructor
  · intro h
    cases d with
    | r n =>
      simp only [pairD, pairReg] at h
      split at h
      · cases h; rfl
      · cases h
    | _ => cases h
  · rintro rfl; simp

theorem pairA_eq_some {a : ASrc} {p : Fin 7} : pairA a = some p ↔ a = .r (pairLow p) := by
  constructor
  · intro h
    cases a with
    | r n =>
      simp only [pairA, pairReg] at h
      split at h
      · cases h; rfl
      · cases h
    | _ => cases h
  · rintro rfl; simp

theorem pairB_eq_some {b : BSrc} {p : Fin 7} : pairB b = some p ↔ b = .r (pairLow p) := by
  constructor
  · intro h
    cases b with
    | r n =>
      simp only [pairB, pairReg] at h
      split at h
      · cases h; rfl
      · cases h
    | _ => cases h
  · rintro rfl; simp

/-- An operand names no pair exactly when its code is above 0110 (R161, R183, R307). -/
theorem pairD_eq_none {d : Dest} : pairD d = none ↔ 6 < d.code := by
  cases d with
  | r n => revert n; decide
  | _ => decide

theorem pairA_eq_none {a : ASrc} : pairA a = none ↔ 6 < a.code := by
  cases a with
  | r n => revert n; decide
  | _ => decide

theorem pairB_eq_none {b : BSrc} : pairB b = none ↔ 6 < b.code := by
  cases b with
  | r n => revert n; decide
  | _ => decide

/-- The value of a pair as a number. -/
theorem pairValue_toNat (s : State) (p : Fin 7) : (s.pairValue p).toNat = pairNat s p := by
  have := (s.x (pairLow p)).isLt
  simp only [State.pairValue, pairNat, BitVec.toNat_append]
  rw [← Nat.shiftLeft_add_eq_or_of_lt (by omega), Nat.shiftLeft_eq]

/-- A 16-bit Register ALU instruction answers a next state exactly on pairs and without a write. -/
theorem regAluX_next_iff {f : AluFn} {cc : CarryCtl} {mm : MemOp} {d : Dest} {a : ASrc}
    {b : BSrc} {s t : State} : regAluX f cc mm d a b s = .next t ↔
      ∃ d' a' b', d = .r (pairLow d') ∧ a = .r (pairLow a') ∧ b = .r (pairLow b') ∧
        memWrites mm = false ∧ t = (s.carryControl cc).runReg16 f mm d' a' b' := by
  constructor
  · intro h
    unfold regAluX at h
    split at h
    · rename_i d' a' b' hd ha hb
      split at h
      · cases h
      · rename_i hw
        refine ⟨d', a', b', pairD_eq_some.mp hd, pairA_eq_some.mp ha, pairB_eq_some.mp hb,
          by simpa using hw, ?_⟩
        injection h with h
        exact h.symm
    · cases h
  · rintro ⟨d', a', b', rfl, rfl, rfl, hw, rfl⟩
    simp [regAluX, hw]

/-- The two results of a 16-bit form: the carry of the low byte feeds the high byte. -/
def results16 (f : AluFn) (cc : CarryCtl) (a b : Fin 7) (s : State) :
    (Byte × Option Bool) × (Byte × Option Bool) :=
  let low := f (s.x (pairLow a)) (s.x (pairLow b)) (carryIn cc s)
  (low, f (s.x (pairHigh a)) (s.x (pairHigh b)) (low.2.getD (carryIn cc s)))

/-- What a 16-bit Register ALU instruction does when it answers a next state. -/
theorem regAluX_effect {f : AluFn} {cc : CarryCtl} {mm : MemOp} {d a b : Fin 7} {s t : State}
    (h : regAluX f cc mm (.r (pairLow d)) (.r (pairLow a)) (.r (pairLow b)) s = .next t) :
    Alu16Effect s t mm d (results16 f cc a b s).1.1 (results16 f cc a b s).2.1 ∧
      t.carry = (results16 f cc a b s).2.2.getD (carryIn cc s) := by
  obtain ⟨d', a', b', hd, ha, hb, hw, ht⟩ := regAluX_next_iff.mp h
  have e : ∀ {p q : Fin 7}, pairLow p = pairLow q → p = q := fun {p q} => by
    revert p q; decide
  injection hd with hd
  injection ha with ha
  injection hb with hb
  cases e hd
  cases e ha
  cases e hb
  simp only [State.runReg16, carryControl_carryIn, carryControl_x, carryControl_sl,
    carryControl_phpl, carryControl_nextPc] at ht
  set low := f (s.x (pairLow a)) (s.x (pairLow b)) (carryIn cc s) with hlow
  set high := f (s.x (pairHigh a)) (s.x (pairHigh b)) (low.2.getD (carryIn cc s)) with hhigh
  have hr : results16 f cc a b s = (low, high) := rfl
  have hne' := (pairLow_ne_pairHigh d).symm
  have hsh : ∀ n, n ≠ 0 → n ≠ 6 → t.sh.getLsbD n = s.sh.getLsbD n := by
    intro n h0 h6
    rw [ht, finish_sh, dmOp_sh_bit _ _ _ _ _ h6]
    simp only [useFree_sh, setDum_sh, carryOut_sh_bit _ _ h0, setR_sh, carryControl_sh_bit _ _ h0]
  rw [hr]
  constructor
  · constructor
    · simp [ht, hne']
    · simp [ht]
    · intro n h1 h2
      simp [ht, Ne.symm h1, Ne.symm h2]
    · simp [ht]
    · simp [ht]
    · simp [ht]
    · simp [ht]
    · exact hsh
    · rw [ht, finish_pedm, dmOp_pedm, pedmAfter]
      congr 1
      simp only [State.pedm, useFree_sh, setDum_sh, carryOut_sh_bit _ _ (by decide : (6 : Nat) ≠ 0),
        setR_sh, carryControl_sh_bit _ _ (by decide : (6 : Nat) ≠ 0)]
    · refine memEffect_of_dmOp (u := ((((s.carryControl cc).setR (pairLow d) low.1).setR
        (pairHigh d) high.1).carryOut high.2 |>.setDum (Config.freeByte s.free)).useFree 1)
        ?_ ?_ ?_ ?_ ?_ ?_ ?_ <;> simp [ht]
    · rw [ht]
      exact finish_pcAfter s _ mm s.phpl s.nextPc
    · simp [ht]
    · simp [ht]
    · simp [ht]
    · simp [ht]
    · simp [ht]
    · simp [ht]
  · rw [ht]
    simp only [finish_carry, dmOp_carry, useFree_carry, setDum_carry, carryOut_carry, setR_carry,
      carryControl_carryIn]

/-! ## The stack and auxiliary group -/

/-- What `MI` does with any body that leaves the registers it must alone (R270, R271). -/
theorem auxEffect_of {s u t : State} {mm : MemOp} {b : BSrc} {next : Addr}
    (ht : t = ((u.setDum (readB b s)).dmOp mm s.sl s.phpl (readB b s)).finish mm s.sl s.phpl next)
    (hr : u.r = s.r) (hsl : u.sl = s.sl) (hab : u.ab = s.ab) (hsh : u.sh = s.sh)
    (hch : u.ch = s.ch) (hcl : u.cl = s.cl) (hdm : u.dm = s.dm) (hio : u.io = s.io)
    (henv : u.env = s.env) : AuxEffect s t mm b next := by
  constructor
  · simp [ht]
  · simp [ht, hr]
  · simp [ht, hsl]
  · simp [ht, hab]
  · intro n hn
    rw [ht, finish_sh, dmOp_sh_bit _ _ _ _ _ hn, setDum_sh, hsh]
  · rw [ht, finish_pedm, dmOp_pedm, pedmAfter]
    simp [State.pedm, hsh]
  · refine memEffect_of_dmOp (u := u.setDum (readB b s)) hdm hch hcl ?_ ?_ ?_ ?_ <;> simp [ht]
  · rw [ht]
    exact finish_pcAfter s _ _ _ _
  · simp [ht, hio]
  · simp [ht, henv]

/-- What the adjusted pointer is, by the number of the P register control (R106). -/
theorem adjusted_eq (s : State) (p : PCtl) :
    s.adjusted p = s.phpl + BitVec.ofInt 16 (pAdj p.code) := by
  cases p <;> rfl

theorem pushThen_room {s : State} {v : Addr} {go : State → State} (h : s.stack.length < 96) :
    pushThen s v go = .next (go (s.setStack (v :: s.stack))) := by
  have : s.hasRoom = true := decide_eq_true h
  simp [pushThen, this]

theorem pushThen_full {s : State} {v : Addr} {go : State → State} (h : 96 ≤ s.stack.length) :
    pushThen s v go = .fault .stackOverflow := by
  have : s.hasRoom = false := decide_eq_false (Nat.not_lt.mpr h)
  simp [pushThen, this]

/-- A push that answers a next state found room. -/
theorem pushThen_next {s t : State} {v : Addr} {go : State → State}
    (h : pushThen s v go = .next t) :
    s.stack.length < 96 ∧ t = go (s.setStack (v :: s.stack)) := by
  by_cases hl : s.stack.length < 96
  · rw [pushThen_room hl] at h
    exact ⟨hl, by injection h with h; exact h.symm⟩
  · rw [pushThen_full (by omega)] at h
    cases h

theorem popThen_cons {s : State} {v : Addr} {rest : List Addr} (go : Addr → List Addr → State)
    (h : s.stack = v :: rest) : popThen s go = .next (go v rest) := by
  simp [popThen, h]

/-- A pop that answers a next state found an item. -/
theorem popThen_next {s t : State} {go : Addr → List Addr → State} (h : popThen s go = .next t) :
    ∃ v rest, s.stack = v :: rest ∧ t = go v rest := by
  unfold popThen at h
  split at h
  · cases h
  · rename_i v rest hs
    exact ⟨v, rest, hs, by injection h with h; exact h.symm⟩

theorem popTwoThen_cons {s : State} {v u : Addr} {rest : List Addr}
    (go : Addr → Addr → List Addr → State) (h : s.stack = v :: u :: rest) :
    popTwoThen s go = .next (go v u rest) := by
  simp [popTwoThen, h]

/-- Two pops that answer a next state found two items. -/
theorem popTwoThen_next {s t : State} {go : Addr → Addr → List Addr → State}
    (h : popTwoThen s go = .next t) :
    ∃ v u rest, s.stack = v :: u :: rest ∧ t = go v u rest := by
  unfold popTwoThen at h
  split at h
  · cases h
  · cases h
  · rename_i v u rest hs
    exact ⟨v, u, rest, hs, by injection h with h; exact h.symm⟩

/-! ## Branches -/

/-- The in-page target as the statements say it (R140, D2). -/
theorem pageTarget_eq (s : State) (x : BitVec 10) : s.pageTarget x = inPage s x := by
  apply BitVec.eq_of_toNat_eq
  have hx := x.isLt
  have hp := s.pc.isLt
  have h1 : (s.pc &&& 0xFC00#16).toNat = s.pc.toNat / 1024 * 1024 := by
    have e : s.pc &&& 0xFC00#16 = (s.pc >>> 10) <<< 10 := by
      rw [BitVec.shiftLeft_ushiftRight]
      rfl
    rw [e, BitVec.toNat_shiftLeft, BitVec.toNat_ushiftRight, Nat.shiftLeft_eq,
      Nat.shiftRight_eq_div_pow]
    omega
  simp only [State.pageTarget, inPage, BitVec.toNat_or, h1, BitVec.toNat_setWidth,
    BitVec.toNat_ofNat]
  have hq : s.pc.toNat / 1024 < 64 := by omega
  generalize s.pc.toNat / 1024 = q at hq ⊢
  have e : q * 1024 ||| x.toNat = q * 1024 + x.toNat := by
    have := Nat.shiftLeft_add_eq_or_of_lt hx q
    rw [Nat.shiftLeft_eq] at this
    exact this.symm
  rw [Nat.mod_eq_of_lt (show x.toNat < 2 ^ 16 by omega), e, Nat.mod_eq_of_lt (by omega)]

/-- A Masked or Valued Branch: only pc changes. -/
theorem testBranch_branches (test : Byte → Bool) (x : BitVec 10) (b : BSrc) (s : State) :
    ∃ t, testBranch test x b s = .next t ∧ branchesTo s t x (test (readB b s) = true) := by
  refine ⟨_, rfl, ?_, fun h => ?_, fun h => ?_⟩
  · simp only [State.branch, setPc_pc]
  · simp [h, pageTarget_eq]
  · simp only [branch_pc, if_neg h]
    rfl

/-- An 8-bit comparison branch: only pc and the pointer change. -/
theorem compareBranch_compares (test : Byte → Byte → Bool) (x : BitVec 10) (a : ASrc) (b : BSrc)
    (s : State) : ∃ t, compareBranch test x a b s = .next t ∧
      comparesTo s t x a (test (readA a s) (readB b s) = true) := by
  refine ⟨_, rfl, ?_, by simp, fun h => ?_, fun h => ?_⟩
  · simp [State.branch, State.setPc, State.movePointer, State.setPhpl, State.setPh, State.setPl]
  · simp [h, pageTarget_eq]
  · simp only [movePointer_pc, branch_pc, if_neg h]
    rfl

/-- A 16-bit comparison branch on pairs: only pc changes. -/
theorem compareBranchX_branches (test : Addr → Addr → Bool) (x : BitVec 10) (p q : Fin 7)
    (s : State) : ∃ t, compareBranchX test x (.r (pairLow p)) (.r (pairLow q)) s = .next t ∧
      branchesTo s t x (test (s.pairValue p) (s.pairValue q) = true) := by
  simp only [compareBranchX, pairA_pairLow, pairB_pairLow]
  refine ⟨_, rfl, ?_, fun h => ?_, fun h => ?_⟩
  · simp only [State.branch, setPc_pc]
  · simp [h, pageTarget_eq]
  · simp only [branch_pc, if_neg h]
    rfl

end Sys2Proof.Machine
end

