-- ==== Sys2Proof/Laws/Flags.lean ====
section
/-! SUPPORT. What each function of the ALU gives, in numbers. -/

namespace Sys2Proof.Machine

/-! ## Nibbles -/

@[simp] theorem lo_toNat (v : Byte) : (lo v).toNat = v.toNat % 16 := by
  simp [lo]

@[simp] theorem hi_toNat (v : Byte) : (hi v).toNat = v.toNat / 16 := by
  have := v.isLt
  simp only [hi, BitVec.extractLsb'_toNat, Nat.shiftRight_eq_div_pow]
  omega

theorem nibbleA_toNat (n : NibSel) (a : Byte) : (nibbleA n a).toNat = pick (n.code.testBit 0) a := by
  cases n <;> simp [nibbleA, pick, NibSel.code]

theorem nibbleB_toNat (n : NibSel) (b : Byte) : (nibbleB n b).toNat = pick (n.code.testBit 1) b := by
  cases n <;> simp [nibbleB, pick, NibSel.code] <;> rfl

theorem pick_lt (u : Bool) (v : Byte) : pick u v < 16 := by
  have := v.isLt
  unfold pick
  split <;> omega

/-! ## Which functions give a carry (R31, R204) -/

theorem orFn_givesCarry : givesCarry orFn false := fun _ _ _ => rfl
theorem xorFn_givesCarry : givesCarry xorFn false := fun _ _ _ => rfl
theorem andFn_givesCarry : givesCarry andFn false := fun _ _ _ => rfl
theorem addFn_givesCarry : givesCarry addFn false := fun _ _ _ => rfl
theorem mulFn_givesCarry (n : NibSel) : givesCarry (mulFn n) false := fun _ _ _ => rfl
theorem sdcFn_givesCarry (n : NibSel) : givesCarry (sdcFn n) false := fun _ _ _ => rfl
theorem imulFn_givesCarry (h : Bool) (c : Nibble) : givesCarry (imulFn h c) false := fun _ _ _ => rfl
theorem adcFn_givesCarry : givesCarry adcFn true := fun _ _ _ => rfl
theorem sbcFn_givesCarry : givesCarry sbcFn true := fun _ _ _ => rfl
theorem dacFn_givesCarry : givesCarry dacFn true := fun _ _ _ => rfl
theorem dscFn_givesCarry : givesCarry dscFn true := fun _ _ _ => rfl

/-! ## Results -/

theorem mulFn_toNat (n : NibSel) (a b : Byte) (c : Bool) : (mulFn n a b c).1.toNat =
    pick (n.code.testBit 0) a * pick (n.code.testBit 1) b := by
  have h1 := pick_lt (n.code.testBit 0) a
  have h2 := pick_lt (n.code.testBit 1) b
  simp only [mulFn, BitVec.toNat_ofNat, nibbleA_toNat, nibbleB_toNat]
  exact Nat.mod_eq_of_lt (by nlinarith)

theorem sdcFn_toNat (n : NibSel) (a b : Byte) (c : Bool) : (sdcFn n a b c).1.toNat =
    pick (n.code.testBit 1) b * 16 + pick (n.code.testBit 0) a := by
  have h1 := pick_lt (n.code.testBit 0) a
  have h2 := pick_lt (n.code.testBit 1) b
  simp only [sdcFn, BitVec.toNat_ofNat, nibbleA_toNat, nibbleB_toNat]
  exact Nat.mod_eq_of_lt (by omega)

theorem imulFn_toNat (h : Bool) (i : Nibble) (a b : Byte) (c : Bool) :
    (imulFn h i a b c).1.toNat = i.toNat * pick h b := by
  have h1 := i.isLt
  have h2 := pick_lt h b
  have e : (if h = true then hi b else lo b).toNat = pick h b := by
    cases h <;> simp [pick]
  simp only [imulFn, BitVec.toNat_ofNat, e]
  exact Nat.mod_eq_of_lt (by nlinarith)

/-- One digit of a decimal addition is the relation of R202. -/
theorem dAdd_digitSum (x y : Nat) (c : Bool) : digitSum x y c (dAdd x y c).1 (dAdd x y c).2 := by
  unfold digitSum dAdd
  simp only [ge_iff_le]
  split <;> simp_all

/-- One digit of a decimal subtraction is the relation of R203. -/
theorem dSub_digitDiff (x y : Nat) (c : Bool) (hy : y < 16) :
    digitDiff x y c (dSub x y c).1 (dSub x y c).2 := by
  have hc := c.toNat_lt
  unfold digitDiff dSub
  by_cases h : x < y + c.toNat
  · rw [if_pos h, if_pos (by omega)]
    exact ⟨by dsimp only; omega, rfl⟩
  · rw [if_neg h, if_neg (by omega)]
    exact ⟨by dsimp only; omega, rfl⟩

theorem dAdd_lt {x y : Nat} (c : Bool) : (dAdd x y c).1 < 16 := by
  unfold dAdd
  dsimp only
  split
  · dsimp only
    omega
  · dsimp only
    omega

theorem dSub_lt {x y : Nat} (c : Bool) (hx : x < 16) : (dSub x y c).1 < 16 := by
  unfold dSub
  split
  · dsimp only
    omega
  · dsimp only
    omega

/-- DAC is the two-digit addition (R192). -/
theorem dacFn_decimalSum (a b : Byte) (c : Bool) :
    decimalSum a b c (dacFn a b c).1 ((dacFn a b c).2.getD false) := by
  have h1 := dAdd_lt (x := (lo a).toNat) (y := (lo b).toNat) c
  set l := dAdd (lo a).toNat (lo b).toNat c with hl
  have h2 := dAdd_lt (x := (hi a).toNat) (y := (hi b).toNat) l.2
  set h := dAdd (hi a).toNat (hi b).toNat l.2 with hh
  have e : (dacFn a b c).1.toNat = h.1 * 16 + l.1 := by
    show (BitVec.ofNat 8 (h.1 * 16 + l.1)).toNat = _
    rw [BitVec.toNat_ofNat]
    exact Nat.mod_eq_of_lt (by omega)
  have e2 : (dacFn a b c).2.getD false = h.2 := rfl
  refine ⟨l.2, ?_, ?_⟩
  · have := dAdd_digitSum (lo a).toNat (lo b).toNat c
    rw [← hl, lo_toNat, lo_toNat] at this
    rwa [e, show (h.1 * 16 + l.1) % 16 = l.1 by omega]
  · have := dAdd_digitSum (hi a).toNat (hi b).toNat l.2
    rw [← hh, hi_toNat, hi_toNat] at this
    rwa [e, e2, show (h.1 * 16 + l.1) / 16 = h.1 by omega]

/-- DSC is the two-digit subtraction (R194). -/
theorem dscFn_decimalDiff (a b : Byte) (c : Bool) :
    decimalDiff a b c (dscFn a b c).1 ((dscFn a b c).2.getD false) := by
  have h1 := dSub_lt (x := (lo a).toNat) (y := (lo b).toNat) c (lo a).isLt
  set l := dSub (lo a).toNat (lo b).toNat c with hl
  have h2 := dSub_lt (x := (hi a).toNat) (y := (hi b).toNat) l.2 (hi a).isLt
  set h := dSub (hi a).toNat (hi b).toNat l.2 with hh
  have e : (dscFn a b c).1.toNat = h.1 * 16 + l.1 := by
    show (BitVec.ofNat 8 (h.1 * 16 + l.1)).toNat = _
    rw [BitVec.toNat_ofNat]
    exact Nat.mod_eq_of_lt (by omega)
  have e2 : (dscFn a b c).2.getD false = h.2 := rfl
  refine ⟨l.2, ?_, ?_⟩
  · have := dSub_digitDiff (lo a).toNat (lo b).toNat c (lo b).isLt
    rw [← hl, lo_toNat, lo_toNat] at this
    rwa [e, show (h.1 * 16 + l.1) % 16 = l.1 by omega]
  · have := dSub_digitDiff (hi a).toNat (hi b).toNat l.2 (hi b).isLt
    rw [← hh, hi_toNat, hi_toNat] at this
    rwa [e, e2, show (h.1 * 16 + l.1) / 16 = h.1 by omega]

end Sys2Proof.Machine
end

