-- ==== Sys2Proof/Laws/PerInstr.lean ====
section
/-! SUPPORT. The family of every instruction: bits 22 and 21 of its encoding (spec 30_encoding R92). -/

namespace Sys2Proof.Laws

/-- Bits 22:21 of the family: 00 Register ALU, auxiliary, stack, CIO and LPI, 01 Immediate ALU, 10 the
comparison branches and the jumps, 11 the masked and valued branches (R92). -/
def familyBits (i : Instr) : Nat :=
  match i with
  | .jmp _ => 2
  | .jsr _ => 2
  | .btl _ _ _ => 3
  | .bth _ _ _ => 3
  | .bfl _ _ _ => 3
  | .bfh _ _ _ => 3
  | .bel _ _ _ => 3
  | .beh _ _ _ => 3
  | .bnl _ _ _ => 3
  | .bnh _ _ _ => 3
  | .blr _ _ _ => 2
  | .blrx _ _ _ => 2
  | .bler _ _ _ => 2
  | .blex _ _ _ => 2
  | .ber _ _ _ => 2
  | .bnr _ _ _ => 2
  | .bez _ _ => 2
  | .bnz _ _ => 2
  | .or _ _ _ _ _ => 0
  | .orx _ _ _ _ _ => 0
  | .xor _ _ _ _ _ => 0
  | .xorx _ _ _ _ _ => 0
  | .and _ _ _ _ _ => 0
  | .andx _ _ _ _ _ => 0
  | .sbc _ _ _ _ _ => 0
  | .sbcx _ _ _ _ _ => 0
  | .dac _ _ _ _ _ => 0
  | .dacx _ _ _ _ _ => 0
  | .dsc _ _ _ _ _ => 0
  | .dscx _ _ _ _ _ => 0
  | .adc _ _ _ _ _ => 0
  | .adcx _ _ _ _ _ => 0
  | .mul _ _ _ _ _ => 0
  | .mulx _ _ _ _ _ => 0
  | .sdc _ _ _ _ _ => 0
  | .sdcx _ _ _ _ _ => 0
  | .ior _ _ _ _ => 1
  | .set _ _ _ => 1
  | .ixor _ _ _ _ => 1
  | .iand _ _ _ _ => 1
  | .iadd _ _ _ _ => 1
  | .idac _ _ _ _ => 1
  | .idsc _ _ _ _ => 1
  | .iadc _ _ _ _ => 1
  | .imul _ _ _ _ _ => 1
  | .cio _ _ _ _ _ _ _ => 0
  | .lpi _ _ => 0
  | .tpa _ _ _ _ _ => 0
  | .xpa _ _ _ _ _ => 0
  | .tap _ _ _ _ => 0
  | .tps _ _ _ _ => 0
  | .tsp _ _ _ => 0
  | .rts _ _ _ _ => 0

/-- The encoding fits bits 22 to 0 and its two highest bits are those of its family (R92). -/
def FamilyBits.Statement (i : Instr) : Prop :=
  encodeBody i < 2 ^ 23 ∧ encodeBody i / 2 ^ 21 = familyBits i

theorem bodyReg_family (aaa x cc : Nat) (mm : MemOp) (d : Dest) (a : ASrc) (b : BSrc)
    (ha : aaa < 8) (hx : x < 2) (hc : cc < 4) :
    bodyReg aaa x cc mm d a b < 2 ^ 23 ∧ bodyReg aaa x cc mm d a b / 2 ^ 21 = 0 := by
  have := mm.code_lt
  have := d.code_lt
  have := a.code_lt
  have := b.code_lt
  unfold bodyReg
  omega

theorem bodyImm_family (aaa : Nat) (mm : MemOp) (d : Dest) (imm : Byte) (b : BSrc) (ha : aaa < 8) :
    bodyImm aaa mm d imm b < 2 ^ 23 ∧ bodyImm aaa mm d imm b / 2 ^ 21 = 1 := by
  have := mm.code_lt
  have := d.code_lt
  have := imm.isLt
  have := b.code_lt
  unfold bodyImm
  omega

theorem bodyBranch_family (op : Nat) (x : BitVec 10) (n : Nat) (b : BSrc) (ho : op < 16)
    (hn : n < 16) :
    bodyBranch op x n b < 2 ^ 23 ∧ bodyBranch op x n b / 2 ^ 21 = 2 + op / 8 := by
  have := x.isLt
  have := b.code_lt
  unfold bodyBranch
  omega

theorem bodyJump_family (op : Nat) (t : Addr) (ho : op < 16) :
    bodyJump op t < 2 ^ 23 ∧ bodyJump op t / 2 ^ 21 = 2 + op / 8 := by
  have := t.isLt
  unfold bodyJump
  omega

theorem bodyAux_family (fff p : Nat) (mm : MemOp) (x : Bool) (r : Nat) (b : BSrc) (hf : fff < 8)
    (hp : p < 8) (hr : r < 32) :
    bodyAux fff p mm x r b < 2 ^ 23 ∧ bodyAux fff p mm x r b / 2 ^ 21 = 0 := by
  have := mm.code_lt
  have := b.code_lt
  have := x.toNat_lt
  unfold bodyAux
  omega

theorem bodyLpi_family (mm : MemOp) (t : Addr) :
    bodyLpi mm t < 2 ^ 23 ∧ bodyLpi mm t / 2 ^ 21 = 0 := by
  have := mm.code_lt
  have := t.isLt
  unfold bodyLpi
  omega

theorem bodyCio_family (mm : MemOp) (clk abs obs cbs srs tim : Bool) :
    bodyCio mm clk abs obs cbs srs tim < 2 ^ 23 ∧
      bodyCio mm clk abs obs cbs srs tim / 2 ^ 21 = 0 := by
  have := mm.code_lt
  have := clk.toNat_lt
  have := abs.toNat_lt
  have := obs.toNat_lt
  have := cbs.toNat_lt
  have := srs.toNat_lt
  have := tim.toNat_lt
  unfold bodyCio
  omega

theorem FamilyBits.jmp (target : Addr) :
    FamilyBits.Statement (.jmp target) :=
  bodyJump_family 7 target (by decide)

theorem FamilyBits.jsr (target : Addr) :
    FamilyBits.Statement (.jsr target) :=
  bodyJump_family 5 target (by decide)

theorem FamilyBits.btl (x : BitVec 10) (c : Nibble) (b : BSrc) :
    FamilyBits.Statement (.btl x c b) :=
  bodyBranch_family 8 x c.toNat b (by decide) c.isLt

theorem FamilyBits.bth (x : BitVec 10) (c : Nibble) (b : BSrc) :
    FamilyBits.Statement (.bth x c b) :=
  bodyBranch_family 9 x c.toNat b (by decide) c.isLt

theorem FamilyBits.bfl (x : BitVec 10) (c : Nibble) (b : BSrc) :
    FamilyBits.Statement (.bfl x c b) :=
  bodyBranch_family 10 x c.toNat b (by decide) c.isLt

theorem FamilyBits.bfh (x : BitVec 10) (c : Nibble) (b : BSrc) :
    FamilyBits.Statement (.bfh x c b) :=
  bodyBranch_family 11 x c.toNat b (by decide) c.isLt

theorem FamilyBits.bel (x : BitVec 10) (c : Nibble) (b : BSrc) :
    FamilyBits.Statement (.bel x c b) :=
  bodyBranch_family 12 x c.toNat b (by decide) c.isLt

theorem FamilyBits.beh (x : BitVec 10) (c : Nibble) (b : BSrc) :
    FamilyBits.Statement (.beh x c b) :=
  bodyBranch_family 13 x c.toNat b (by decide) c.isLt

theorem FamilyBits.bnl (x : BitVec 10) (c : Nibble) (b : BSrc) :
    FamilyBits.Statement (.bnl x c b) :=
  bodyBranch_family 14 x c.toNat b (by decide) c.isLt

theorem FamilyBits.bnh (x : BitVec 10) (c : Nibble) (b : BSrc) :
    FamilyBits.Statement (.bnh x c b) :=
  bodyBranch_family 15 x c.toNat b (by decide) c.isLt

theorem FamilyBits.blr (x : BitVec 10) (a : ASrc) (b : BSrc) :
    FamilyBits.Statement (.blr x a b) :=
  bodyBranch_family 0 x a.code b (by decide) a.code_lt

theorem FamilyBits.blrx (x : BitVec 10) (a : ASrc) (b : BSrc) :
    FamilyBits.Statement (.blrx x a b) :=
  bodyBranch_family 1 x a.code b (by decide) a.code_lt

theorem FamilyBits.bler (x : BitVec 10) (a : ASrc) (b : BSrc) :
    FamilyBits.Statement (.bler x a b) :=
  bodyBranch_family 2 x a.code b (by decide) a.code_lt

theorem FamilyBits.blex (x : BitVec 10) (a : ASrc) (b : BSrc) :
    FamilyBits.Statement (.blex x a b) :=
  bodyBranch_family 3 x a.code b (by decide) a.code_lt

theorem FamilyBits.ber (x : BitVec 10) (a : ASrc) (b : BSrc) :
    FamilyBits.Statement (.ber x a b) :=
  bodyBranch_family 4 x a.code b (by decide) a.code_lt

theorem FamilyBits.bnr (x : BitVec 10) (a : ASrc) (b : BSrc) :
    FamilyBits.Statement (.bnr x a b) :=
  bodyBranch_family 6 x a.code b (by decide) a.code_lt

theorem FamilyBits.bez (x : BitVec 10) (a : ASrc) :
    FamilyBits.Statement (.bez x a) :=
  bodyBranch_family 4 x a.code .zero (by decide) a.code_lt

theorem FamilyBits.bnz (x : BitVec 10) (a : ASrc) :
    FamilyBits.Statement (.bnz x a) :=
  bodyBranch_family 6 x a.code .zero (by decide) a.code_lt

theorem FamilyBits.or (cc : CarryCtl) (mm : MemOp) (d : Dest) (a : ASrc) (b : BSrc) :
    FamilyBits.Statement (.or cc mm d a b) :=
  bodyReg_family 0 0 cc.code mm d a b (by decide) (by decide) cc.code_lt

theorem FamilyBits.orx (cc : CarryCtl) (mm : MemOp) (d : Dest) (a : ASrc) (b : BSrc) :
    FamilyBits.Statement (.orx cc mm d a b) :=
  bodyReg_family 0 1 cc.code mm d a b (by decide) (by decide) cc.code_lt

theorem FamilyBits.xor (cc : CarryCtl) (mm : MemOp) (d : Dest) (a : ASrc) (b : BSrc) :
    FamilyBits.Statement (.xor cc mm d a b) :=
  bodyReg_family 1 0 cc.code mm d a b (by decide) (by decide) cc.code_lt

theorem FamilyBits.xorx (cc : CarryCtl) (mm : MemOp) (d : Dest) (a : ASrc) (b : BSrc) :
    FamilyBits.Statement (.xorx cc mm d a b) :=
  bodyReg_family 1 1 cc.code mm d a b (by decide) (by decide) cc.code_lt

theorem FamilyBits.and (cc : CarryCtl) (mm : MemOp) (d : Dest) (a : ASrc) (b : BSrc) :
    FamilyBits.Statement (.and cc mm d a b) :=
  bodyReg_family 2 0 cc.code mm d a b (by decide) (by decide) cc.code_lt

theorem FamilyBits.andx (cc : CarryCtl) (mm : MemOp) (d : Dest) (a : ASrc) (b : BSrc) :
    FamilyBits.Statement (.andx cc mm d a b) :=
  bodyReg_family 2 1 cc.code mm d a b (by decide) (by decide) cc.code_lt

theorem FamilyBits.sbc (cc : CarryCtl) (mm : MemOp) (d : Dest) (a : ASrc) (b : BSrc) :
    FamilyBits.Statement (.sbc cc mm d a b) :=
  bodyReg_family 3 0 cc.code mm d a b (by decide) (by decide) cc.code_lt

theorem FamilyBits.sbcx (cc : CarryCtl) (mm : MemOp) (d : Dest) (a : ASrc) (b : BSrc) :
    FamilyBits.Statement (.sbcx cc mm d a b) :=
  bodyReg_family 3 1 cc.code mm d a b (by decide) (by decide) cc.code_lt

theorem FamilyBits.dac (cc : CarryCtl) (mm : MemOp) (d : Dest) (a : ASrc) (b : BSrc) :
    FamilyBits.Statement (.dac cc mm d a b) :=
  bodyReg_family 4 0 cc.code mm d a b (by decide) (by decide) cc.code_lt

theorem FamilyBits.dacx (cc : CarryCtl) (mm : MemOp) (d : Dest) (a : ASrc) (b : BSrc) :
    FamilyBits.Statement (.dacx cc mm d a b) :=
  bodyReg_family 4 1 cc.code mm d a b (by decide) (by decide) cc.code_lt

theorem FamilyBits.dsc (cc : CarryCtl) (mm : MemOp) (d : Dest) (a : ASrc) (b : BSrc) :
    FamilyBits.Statement (.dsc cc mm d a b) :=
  bodyReg_family 5 0 cc.code mm d a b (by decide) (by decide) cc.code_lt

theorem FamilyBits.dscx (cc : CarryCtl) (mm : MemOp) (d : Dest) (a : ASrc) (b : BSrc) :
    FamilyBits.Statement (.dscx cc mm d a b) :=
  bodyReg_family 5 1 cc.code mm d a b (by decide) (by decide) cc.code_lt

theorem FamilyBits.adc (cc : CarryCtl) (mm : MemOp) (d : Dest) (a : ASrc) (b : BSrc) :
    FamilyBits.Statement (.adc cc mm d a b) :=
  bodyReg_family 6 0 cc.code mm d a b (by decide) (by decide) cc.code_lt

theorem FamilyBits.adcx (cc : CarryCtl) (mm : MemOp) (d : Dest) (a : ASrc) (b : BSrc) :
    FamilyBits.Statement (.adcx cc mm d a b) :=
  bodyReg_family 6 1 cc.code mm d a b (by decide) (by decide) cc.code_lt

theorem FamilyBits.mul (nn : NibSel) (mm : MemOp) (d : Dest) (a : ASrc) (b : BSrc) :
    FamilyBits.Statement (.mul nn mm d a b) :=
  bodyReg_family 7 0 nn.code mm d a b (by decide) (by decide) nn.code_lt

theorem FamilyBits.mulx (nn : NibSel) (mm : MemOp) (d : Dest) (a : ASrc) (b : BSrc) :
    FamilyBits.Statement (.mulx nn mm d a b) :=
  bodyReg_family 7 1 nn.code mm d a b (by decide) (by decide) nn.code_lt

theorem FamilyBits.sdc (ss : NibSel) (mm : MemOp) (d : Dest) (a : ASrc) (b : BSrc) :
    FamilyBits.Statement (.sdc ss mm d a b) :=
  bodyReg_family ss.code 0 1 mm d a b (by have := ss.code_lt; omega) (by decide) (by decide)

theorem FamilyBits.sdcx (ss : NibSel) (mm : MemOp) (d : Dest) (a : ASrc) (b : BSrc) :
    FamilyBits.Statement (.sdcx ss mm d a b) :=
  bodyReg_family ss.code 1 1 mm d a b (by have := ss.code_lt; omega) (by decide) (by decide)

theorem FamilyBits.ior (mm : MemOp) (d : Dest) (imm : Byte) (b : BSrc) :
    FamilyBits.Statement (.ior mm d imm b) :=
  bodyImm_family 0 mm d imm b (by decide)

theorem FamilyBits.set (mm : MemOp) (d : Dest) (imm : Byte) :
    FamilyBits.Statement (.set mm d imm) :=
  bodyImm_family 0 mm d imm .zero (by decide)

theorem FamilyBits.ixor (mm : MemOp) (d : Dest) (imm : Byte) (b : BSrc) :
    FamilyBits.Statement (.ixor mm d imm b) :=
  bodyImm_family 1 mm d imm b (by decide)

theorem FamilyBits.iand (mm : MemOp) (d : Dest) (imm : Byte) (b : BSrc) :
    FamilyBits.Statement (.iand mm d imm b) :=
  bodyImm_family 2 mm d imm b (by decide)

theorem FamilyBits.iadd (mm : MemOp) (d : Dest) (imm : Byte) (b : BSrc) :
    FamilyBits.Statement (.iadd mm d imm b) :=
  bodyImm_family 3 mm d imm b (by decide)

theorem FamilyBits.idac (mm : MemOp) (d : Dest) (imm : Byte) (b : BSrc) :
    FamilyBits.Statement (.idac mm d imm b) :=
  bodyImm_family 4 mm d imm b (by decide)

theorem FamilyBits.idsc (mm : MemOp) (d : Dest) (imm : Byte) (b : BSrc) :
    FamilyBits.Statement (.idsc mm d imm b) :=
  bodyImm_family 5 mm d imm b (by decide)

theorem FamilyBits.iadc (mm : MemOp) (d : Dest) (imm : Byte) (b : BSrc) :
    FamilyBits.Statement (.iadc mm d imm b) :=
  bodyImm_family 6 mm d imm b (by decide)

theorem FamilyBits.imul (high : Bool) (mm : MemOp) (d : Dest) (i : Nibble) (b : BSrc) :
    FamilyBits.Statement (.imul high mm d i b) :=
  bodyImm_family 7 mm d (BitVec.ofNat 8 (high.toNat * 32 + i.toNat)) b (by decide)

theorem FamilyBits.cio (mm : MemOp) (clk : Bool) (abs : Bool) (obs : Bool) (cbs : Bool) (srs : Bool) (tim : Bool) :
    FamilyBits.Statement (.cio mm clk abs obs cbs srs tim) :=
  bodyCio_family mm clk abs obs cbs srs tim

theorem FamilyBits.lpi (mm : MemOp) (addr : Addr) :
    FamilyBits.Statement (.lpi mm addr) :=
  bodyLpi_family mm addr

theorem FamilyBits.tpa (p : PCtl) (mm : MemOp) (x : Bool) (r : ArNum) (b : BSrc) :
    FamilyBits.Statement (.tpa p mm x r b) :=
  bodyAux_family 0 p.code mm x r.val b (by decide) p.code_lt r.isLt

theorem FamilyBits.xpa (p : PCtl) (mm : MemOp) (x : Bool) (r : ArNum) (b : BSrc) :
    FamilyBits.Statement (.xpa p mm x r b) :=
  bodyAux_family 1 p.code mm x r.val b (by decide) p.code_lt r.isLt

theorem FamilyBits.tap (mm : MemOp) (x : Bool) (r : ArNum) (b : BSrc) :
    FamilyBits.Statement (.tap mm x r b) :=
  bodyAux_family 5 0 mm x r.val b (by decide) (by decide) r.isLt

theorem FamilyBits.tps (p : PCtl) (mm : MemOp) (x : Bool) (b : BSrc) :
    FamilyBits.Statement (.tps p mm x b) :=
  bodyAux_family 2 p.code mm x 0 b (by decide) p.code_lt (by decide)

theorem FamilyBits.tsp (mm : MemOp) (x : Bool) (b : BSrc) :
    FamilyBits.Statement (.tsp mm x b) :=
  bodyAux_family 6 0 mm x 0 b (by decide) (by decide) (by decide)

theorem FamilyBits.rts (cm : CmCtl) (mm : MemOp) (x : Bool) (b : BSrc) :
    FamilyBits.Statement (.rts cm mm x b) :=
  bodyAux_family 3 cm.code mm x 0 b (by decide) (by have := cm.code_lt; omega) (by decide)

end Sys2Proof.Laws
end

