-- ==== Sys2Proof/Laws/Step.lean ====
section
/-! SUPPORT. What a step can be, and that every memory operation keeps the canonical form of both
memories. -/

namespace Sys2Proof.Machine

/-! ## The canonical form -/

theorem reset_dm_wf : Memory.wf State.reset.dm := ⟨List.Pairwise.nil, by simp [State.reset]⟩

theorem reset_cm_wf : Memory.wf State.reset.cm := ⟨List.Pairwise.nil, by simp [State.reset]⟩

theorem dmWrite_dm_wf {s : State} (h : Memory.wf s.dm) (w : Byte) (a : Addr) (v : Byte) :
    Memory.wf (s.dmWrite w a v).dm := by
  unfold State.dmWrite
  split
  · exact memory_wf_set h _ _
  · exact h

theorem dmOp_dm_wf {s : State} (h : Memory.wf s.dm) (mm : MemOp) (w : Byte) (ma : Addr) (v : Byte) :
    Memory.wf (s.dmOp mm w ma v).dm := by
  rw [dmOp_dm]
  split
  · exact h
  · split
    · exact memory_wf_set h _ _
    · exact h

theorem cmWrite_cm_wf {s : State} (h : Memory.wf s.cm) (a : Addr) (w : CWord) :
    Memory.wf (s.cmWrite a w).cm := by
  unfold State.cmWrite
  split
  · exact memory_wf_set h _ _
  · exact h

theorem cmLoad_cm_wf {s : State} (h : Memory.wf s.cm) (a : Addr) (w : CWord) :
    Memory.wf (s.cmLoad a w).cm := memory_wf_set h _ _

theorem withFetchWord_cm_wf {s : State} (h : Memory.wf s.cm) (nbits w : Nat) :
    Memory.wf (s.withFetchWord nbits w).cm := cmLoad_cm_wf h _ _

/-! ## The step -/

/-- With the script empty the processor runs the word at pc (R10, R319). -/
theorem step_of_env_nil {s : State} (h : s.env = []) : step s = runWord s.fetch s := by
  simp only [step, turn, h, instructionStep]

/-- A turn of the processor takes the head off the script and runs the word at pc (R319). -/
theorem step_of_env_processor {s : State} {rest : List Turn} (h : s.env = .processor :: rest) :
    step s = runWord s.fetch (s.setEnv rest) := by
  simp only [step, turn, h, instructionStep]
  rfl

/-- A turn of the environment (R319). -/
theorem step_of_env_environment {s : State} {e : EnvStep} {rest : List Turn}
    (h : s.env = .environment e :: rest) : step s = .next ((s.setEnv rest).envStep e) := by
  simp only [step, turn, h]

/-- Even parity: PECM (R301, R302). -/
theorem runWord_even {w : CWord} (s : State) (h : oddParity w = false) :
    runWord w s = .next (s.setPc Config.pecmVector) := by
  simp [runWord, h, State.takeVector]

/-- Odd parity and an instruction: it runs (R10). -/
theorem runWord_ok {w : CWord} {i : Instr} (s : State) (h : oddParity w = true)
    (hd : decode w = .ok i) : runWord w s = exec i s := by
  simp [runWord, h, hd]

/-- Odd parity and no instruction: IllegalInstruction (R113). -/
theorem runWord_error {w : CWord} {why : Illegal} (s : State) (h : oddParity w = true)
    (hd : decode w = .error why) : runWord w s = .fault (.illegalInstruction why) := by
  simp [runWord, h, hd]

/-- Everything a step can be: a turn of the environment, a parity error, an instruction of the word
fetched, or a word that is no instruction; `u` is the state without the script's head. -/
theorem step_cases (s : State) :
    (∃ e rest, s.env = .environment e :: rest ∧ step s = .next ((s.setEnv rest).envStep e)) ∨
    (∃ rest, step s = .next ((s.setEnv rest).setPc Config.pecmVector)) ∨
    (∃ i rest, decode s.fetch = .ok i ∧ step s = exec i (s.setEnv rest)) ∨
    (∃ why, decode s.fetch = .error why ∧ step s = .fault (.illegalInstruction why)) := by
  have key : ∀ rest, step s = runWord s.fetch (s.setEnv rest) →
      (∃ rest, step s = .next ((s.setEnv rest).setPc Config.pecmVector)) ∨
      (∃ i rest, decode s.fetch = .ok i ∧ step s = exec i (s.setEnv rest)) ∨
      (∃ why, decode s.fetch = .error why ∧ step s = .fault (.illegalInstruction why)) := by
    intro rest h
    cases hp : oddParity s.fetch with
    | false => exact .inl ⟨rest, h.trans (runWord_even _ hp)⟩
    | true =>
      cases hd : decode s.fetch with
      | ok i => exact .inr (.inl ⟨i, rest, rfl, h.trans (runWord_ok _ hp hd)⟩)
      | error why => exact .inr (.inr ⟨why, rfl, h.trans (runWord_error _ hp hd)⟩)
  cases he : s.env with
  | nil =>
    refine .inr (key [] ?_)
    rw [step_of_env_nil he]
    congr 1
    cases s
    simp_all [State.setEnv]
  | cons t rest =>
    cases t with
    | processor => exact .inr (key rest (step_of_env_processor he))
    | environment e => exact .inl ⟨e, rest, rfl, step_of_env_environment he⟩

/-- The word `withFetchWord` places is the word the next step fetches (log 6). -/
theorem withFetchWord_fetch {s : State} (h : Memory.wf s.cm) (nbits w : Nat) :
    (s.withFetchWord nbits w).fetch = withParity (w % 2 ^ nbits) := by
  simp only [State.fetch, State.cmRead, State.withFetchWord, placeWord, State.cmLoad, setEnv_cm,
    setCm_cm, setEnv_pc, setCm_pc, memory_get_set h, if_true]

end Sys2Proof.Machine
end

