-- ==== Sys2Proof/Tests/Slice0.lean ====
section
/-! SUPPORT. Small tests. Decoded words and results are the spec's: words and tables of its source
(95_test_vectors part A, A1 to A12), its vectors V<n>, or the encodings of R93 to R109 written out. A
witness_ theorem shows a state and operands that meet the hypotheses of the obligation it is named after. -/

namespace Sys2Proof.Tests

open Sys2Proof Sys2Proof.Machine

/-! ## Helpers -/

/-- The decoder reads this instruction. -/
def reads (w : CWord) (i : Instr) : Bool :=
  match decode w with
  | .ok j => j == i
  | .error _ => false

/-- The decoder gives this reason. -/
def rejects (w : CWord) (e : Illegal) : Bool :=
  match decode w with
  | .ok _ => false
  | .error f => f == e

/-- One step with the word at pc. -/
def go (w : CWord) (s : State) : Result := step { s with cm := [(s.pc.toNat, w)] }

/-- What one sees of the next state, if there is one. -/
def sees {α : Type} (f : State → α) (r : Result) : Option α :=
  match r with
  | .next t => some (f t)
  | .fault _ => none
  | .refused _ => none

/-- The answer is this fault. -/
def faults (e : Fault) (r : Result) : Bool :=
  match r with
  | .next _ => false
  | .fault f => f == e
  | .refused _ => false

/-- The answer is this refusal. -/
def refuses (e : Refusal) (r : Result) : Bool :=
  match r with
  | .next _ => false
  | .fault _ => false
  | .refused f => f == e

/-- Reset with these values in R0 to R7 and the carry. -/
def withRegs (l : List Byte) (c : Bool) : State :=
  { State.reset with r := Vector.ofFn (fun n => l.getD n.val 0), sh := if c then 1 else 0 }

/-- Reset with this pc, R2 and SH. -/
def at6000 (v : Byte) : State := { withRegs [0, 0, v] false with pc := 0x6000 }

/-- Reset with this pointer. -/
def withPointer (v : Addr) : State :=
  { State.reset with ph := v.extractLsb' 8 8, pl := v.extractLsb' 0 8 }

/-- Reset with this stack. -/
def withStack (l : List Addr) : State := { State.reset with stack := l }

/-- A full stack. -/
def full : State := withStack (List.replicate 96 0xAAAA)

/-- A stack with room for one item. -/
def nearlyFull : State := withStack (List.replicate 95 0xAAAA)

/-! ## Decoding -/

/-- Words printed in the source (A1). -/
theorem test_decode_jumps :
    reads 0xDE6A08#24 (.jmp 0x0A6A) = true ∧
    reads 0xD50108#24 (.jsr 0x0901) = true := by decide

/-- Words printed in the source (A1). -/
theorem test_decode_masked :
    reads 0x600362#24 (.btl 0x003 6 (.r 2)) = true ∧
    reads 0xE403A2#24 (.bth 0x003 0xA (.r 2)) = true ∧
    reads 0xE80332#24 (.bfl 0x003 3 (.r 2)) = true ∧
    reads 0x6C021D#24 (.bfh 0x002 1 .sh) = true := by decide

/-- Words printed in the source (A1). -/
theorem test_decode_valued :
    reads 0xF00352#24 (.bel 0x003 5 (.r 2)) = true ∧
    reads 0x740332#24 (.beh 0x003 3 (.r 2)) = true ∧
    reads 0x7803A2#24 (.bnl 0x003 0xA (.r 2)) = true ∧
    reads 0xFC03C2#24 (.bnh 0x003 0xC (.r 2)) = true := by decide

/-- Words printed in the source (A1). -/
theorem test_decode_compare :
    reads 0x420D36#24 (.blr 0x20D (.r 3) (.r 6)) = true ∧
    reads 0x461025#24 (.blrx 0x210 (.r 2) (.r 5)) = true ∧
    reads 0xCA0D36#24 (.bler 0x20D (.r 3) (.r 6)) = true ∧
    reads 0xCE1025#24 (.blex 0x210 (.r 2) (.r 5)) = true ∧
    reads 0xD20D36#24 (.ber 0x20D (.r 3) (.r 6)) = true ∧
    reads 0x5A0D36#24 (.bnr 0x20D (.r 3) (.r 6)) = true ∧
    reads 0xD20D3F#24 (.bez 0x20D (.r 3)) = true ∧
    reads 0x5A0D3F#24 (.bnz 0x20D (.r 3)) = true := by decide

/-- Words printed in the source (A1). -/
theorem test_decode_register_alu :
    reads 0x008201#24 (.or .clear .none (.r 2) (.r 0) (.r 1)) = true ∧
    reads 0x848201#24 (.xor .clear .none (.r 2) (.r 0) (.r 1)) = true ∧
    reads 0x888201#24 (.and .clear .none (.r 2) (.r 0) (.r 1)) = true ∧
    reads 0x8CC22F#24 (.sbc .set .none (.r 2) (.r 2) .zero) = true ∧
    reads 0x10C201#24 (.dac .set .none (.r 2) (.r 0) (.r 1)) = true ∧
    reads 0x148223#24 (.dsc .clear .none (.r 2) (.r 2) (.r 3)) = true ∧
    reads 0x98C201#24 (.adc .set .none (.r 2) (.r 0) (.r 1)) = true ∧
    reads 0x1C0201#24 (.mul .albl .none (.r 2) (.r 0) (.r 1)) = true ∧
    reads 0x844402#24 (.sdc .ahbl .none (.r 4) (.r 0) (.r 2)) = true := by decide

/-- Words printed in the source (A1). -/
theorem test_decode_register_alu_x :
    reads 0x828402#24 (.orx .clear .none (.r 4) (.r 0) (.r 2)) = true ∧
    reads 0x068402#24 (.xorx .clear .none (.r 4) (.r 0) (.r 2)) = true ∧
    reads 0x0A8402#24 (.andx .clear .none (.r 4) (.r 0) (.r 2)) = true ∧
    reads 0x0EC402#24 (.sbcx .set .none (.r 4) (.r 0) (.r 2)) = true ∧
    reads 0x128402#24 (.dacx .clear .none (.r 4) (.r 0) (.r 2)) = true ∧
    reads 0x16C402#24 (.dscx .set .none (.r 4) (.r 0) (.r 2)) = true ∧
    reads 0x1AC402#24 (.adcx .set .none (.r 4) (.r 0) (.r 2)) = true ∧
    reads 0x9E0402#24 (.mulx .albl .none (.r 4) (.r 0) (.r 2)) = true ∧
    reads 0x064402#24 (.sdcx .ahbl .none (.r 4) (.r 0) (.r 2)) = true := by decide

/-- Words of A1 and of the vectors V6 to V8, V167 to V175. -/
theorem test_decode_immediate :
    reads 0xA3F200#24 (.ior .w2 (.r 2) 0xF0 (.r 0)) = true ∧
    reads 0x214E2F#24 (.set .none .k 0x52) = true ∧
    reads 0xA7CEFE#24 (.ixor .none .k 0xFF .k) = true ∧
    reads 0xAB8DDD#24 (.iand .none .sh 0xED .sh) = true ∧
    reads 0x2CA000#24 (.iadd .w1 (.r 0) 0x20 (.r 0)) = true ∧
    reads 0x308252#24 (.idac .none (.r 2) 0x25 (.r 2)) = true ∧
    reads 0x354202#24 (.idsc .none (.r 2) 0x50 (.r 2)) = true ∧
    reads 0xB80212#24 (.iadc .none (.r 2) 0x01 (.r 2)) = true ∧
    reads 0xBC8271#24 (.imul true .none (.r 2) 7 (.r 1)) = true := by decide

/-- Words of A1, V190. -/
theorem test_decode_cio_lpi :
    reads 0x178C00#24 (.cio .none true true false false false false) = true ∧
    reads 0x978080#24 (.cio .none false false false false true false) = true ∧
    reads 0x17800C#24 (.cio .none false false false false false true) = true ∧
    reads 0x192103#24 (.lpi .w1 0x0103) = true ∧
    reads 0x9B0F82#24 (.lpi .none 0x4F82) = true := by decide

/-- Words of A1 and of the vectors V211 to V234. -/
theorem test_decode_stack_aux :
    reads 0x81800F#24 (.tpa .same .none false 0 .zero) = true ∧
    reads 0x81C7FF#24 (.tpa .minus3 .none false 31 .zero) = true ∧
    reads 0x03800F#24 (.xpa .same .none false 0 .zero) = true ∧
    reads 0x8BA03E#24 (.tap .w1 false 3 .k) = true ∧
    reads 0x05C40F#24 (.tps .minus2 .none false .zero) = true ∧
    reads 0x0D900F#24 (.tsp .rd false .zero) = true ∧
    reads 0x078400#24 (.rts .write .none false (.r 0)) = true ∧
    reads 0x81882F#24 (.tpa .same .none true 2 .zero) = true := by decide

/-- Operand codes of Tables 1 to 4, in the words of vectors V56, V80, V107 to V125, V254. -/
theorem test_decode_operands :
    reads 0x0005BF#24 (.or .asIs .none (.r 5) .ch .zero) = true ∧
    reads 0x80059F#24 (.or .asIs .none (.r 5) .chMinus .zero) = true ∧
    reads 0x800FFF#24 (.or .asIs .none .dum .zeroMinus .zero) = true ∧
    reads 0x1892D2#24 (.adc .clear .rd (.r 2) .chPlus (.r 2)) = true ∧
    reads 0xDA0D8F#24 (.bnz 0x20D .clMinus) = true ∧
    reads 0x600358#24 (.btl 0x003 5 .pl) = true ∧
    reads 0xA1605F#24 (.set .w1 (.r 0) 0x55) = true := by decide

/-- The unassigned words of vectors V43, V120, V177, V197, V199, V245 to V249. -/
theorem test_decode_rejected :
    rejects 0x5E6A09#24 .jumpReserved = true ∧
    rejects 0x000A01#24 .destination = true ∧
    rejects 0xBC4271#24 .imulReserved = true ∧
    rejects 0x978004#24 .cioReserved = true ∧
    rejects 0x97C000#24 .cioFixed = true ∧
    rejects 0x118000#24 .ioFunction = true ∧
    rejects 0x01000F#24 .auxBit15 = true ∧
    rejects 0x09800F#24 .auxFunction = true ∧
    rejects 0x07C00F#24 .auxReserved = true := by decide

/-! ## Well-formedness: a term that no word stands for is refused, check by check -/

theorem test_wf_carry_control :
    (Instr.or .asIsAlt .none (.r 2) (.r 0) (.r 1)).wellFormed = false ∧
    (Instr.orx .asIsAlt .none (.r 2) (.r 0) (.r 1)).wellFormed = false ∧
    (Instr.xor .asIsAlt .none (.r 2) (.r 0) (.r 1)).wellFormed = false ∧
    (Instr.xorx .asIsAlt .none (.r 2) (.r 0) (.r 1)).wellFormed = false ∧
    (Instr.and .asIsAlt .none (.r 2) (.r 0) (.r 1)).wellFormed = false ∧
    (Instr.andx .asIsAlt .none (.r 2) (.r 0) (.r 1)).wellFormed = false ∧
    (Instr.sbc .asIsAlt .none (.r 2) (.r 0) (.r 1)).wellFormed = false ∧
    (Instr.sbcx .asIsAlt .none (.r 2) (.r 0) (.r 1)).wellFormed = false := by decide

theorem test_wf_destination :
    (Instr.or .asIs .none .illegalA (.r 0) (.r 1)).wellFormed = false ∧
    (Instr.xor .asIs .none .illegalA (.r 0) (.r 1)).wellFormed = false ∧
    (Instr.and .asIs .none .illegalA (.r 0) (.r 1)).wellFormed = false ∧
    (Instr.sbc .asIs .none .illegalA (.r 0) (.r 1)).wellFormed = false ∧
    (Instr.dac .asIs .none .illegalA (.r 0) (.r 1)).wellFormed = false ∧
    (Instr.dsc .asIs .none .illegalA (.r 0) (.r 1)).wellFormed = false ∧
    (Instr.adc .asIs .none .illegalA (.r 0) (.r 1)).wellFormed = false ∧
    (Instr.mul .albl .none .illegalB (.r 0) (.r 1)).wellFormed = false ∧
    (Instr.sdc .albl .none .illegalB (.r 0) (.r 1)).wellFormed = false := by decide

theorem test_wf_immediate_destination :
    (Instr.ior .none .illegalB 0 (.r 1)).wellFormed = false ∧
    (Instr.ixor .none .illegalB 0 (.r 1)).wellFormed = false ∧
    (Instr.iand .none .illegalB 0 (.r 1)).wellFormed = false ∧
    (Instr.iadd .none .illegalB 0 (.r 1)).wellFormed = false ∧
    (Instr.idac .none .illegalB 0 (.r 1)).wellFormed = false ∧
    (Instr.idsc .none .illegalB 0 (.r 1)).wellFormed = false ∧
    (Instr.iadc .none .illegalB 0 (.r 1)).wellFormed = false ∧
    (Instr.set .none .illegalA 0).wellFormed = false ∧
    (Instr.imul false .none .illegalA 0 (.r 1)).wellFormed = false := by decide

/-- With B = 1111 the words are SET, BEZ and BNZ (R116). -/
theorem test_wf_constant_zero :
    (Instr.ior .none (.r 2) 0 .zero).wellFormed = false ∧
    (Instr.ber 0 (.r 3) .zero).wellFormed = false ∧
    (Instr.bnr 0 (.r 3) .zero).wellFormed = false := by decide

/-! ## One step of each instruction -/

/-- V22. -/
theorem test_jmp :
    sees State.pc (go 0xDE6A08#24 State.reset) =
      some 0x0A6A := by decide

/-- V40: the return address wraps. -/
theorem test_jsr :
    sees (fun t => (t.pc, t.stack)) (go 0x540000#24 { withStack [0x1111] with pc := 0xFFFF }) =
      some (0, [0, 0x1111]) := by decide

/-- A2: x7 is taken. -/
theorem test_btl_taken :
    sees State.pc (go 0x600362#24 (at6000 0xA7)) =
      some 0x6003 := by decide

/-- V58: the page of the branch itself. -/
theorem test_btl_page :
    sees State.pc (go 0x600010#24 { withRegs [1] false with pc := 0x63FF }) =
      some 0x6000 := by decide

/-- A2: Bx is taken. -/
theorem test_bth :
    sees State.pc (go 0xE403A2#24 (at6000 0xB0)) =
      some 0x6003 := by decide

/-- A2: 9x is not. -/
theorem test_bth_not :
    sees State.pc (go 0xE403A2#24 (at6000 0x9A)) =
      some 0x6001 := by decide

/-- A2: xC is taken. -/
theorem test_bfl :
    sees State.pc (go 0xE80332#24 (at6000 0x7C)) =
      some 0x6003 := by decide

/-- A2: x1 is not. -/
theorem test_bfl_not :
    sees State.pc (go 0xE80332#24 (at6000 0x01)) =
      some 0x6001 := by decide

/-- A2: 8x is taken. -/
theorem test_bfh :
    sees State.pc (go 0x6C0352#24 (at6000 0x85)) =
      some 0x6003 := by decide

/-- A2: 4x is not. -/
theorem test_bfh_not :
    sees State.pc (go 0x6C0352#24 (at6000 0x40)) =
      some 0x6001 := by decide

/-- V62. -/
theorem test_bel :
    sees State.pc (go 0xF00352#24 (at6000 0xA5)) =
      some 0x6003 := by decide

/-- V63. -/
theorem test_bel_not :
    sees State.pc (go 0xF00352#24 (at6000 0x5A)) =
      some 0x6001 := by decide

/-- V64. -/
theorem test_beh :
    sees State.pc (go 0x740352#24 (at6000 0x5A)) =
      some 0x6003 := by decide

/-- A2: only 5x. -/
theorem test_beh_not :
    sees State.pc (go 0x740352#24 (at6000 0xA5)) =
      some 0x6001 := by decide

/-- V65. -/
theorem test_bnl :
    sees State.pc (go 0x7803A2#24 (at6000 0x5A)) =
      some 0x6001 := by decide

/-- A2. -/
theorem test_bnl_taken :
    sees State.pc (go 0x7803A2#24 (at6000 0xA5)) =
      some 0x6003 := by decide

/-- A2: Cx is not taken. -/
theorem test_bnh :
    sees State.pc (go 0xFC03C2#24 (at6000 0xC5)) =
      some 0x6001 := by decide

/-- A2. -/
theorem test_bnh_taken :
    sees State.pc (go 0xFC03C2#24 (at6000 0x5C)) =
      some 0x6003 := by decide

/-- A3. -/
theorem test_blr :
    sees State.pc (go 0x420D36#24 (withRegs [0, 0, 0, 0x80, 0, 0, 0x8F] false)) =
      some 0x020D := by decide

/-- A3: unsigned. -/
theorem test_blr_not :
    sees State.pc (go 0x420D36#24 (withRegs [0, 0, 0, 0x80, 0, 0, 0x02] false)) =
      some 1 := by decide

/-- A3. -/
theorem test_bler :
    sees State.pc (go 0xCA0D36#24 (withRegs [0, 0, 0, 0xDE, 0, 0, 0xDE] false)) =
      some 0x020D := by decide

/-- A3. -/
theorem test_bler_not :
    sees State.pc (go 0xCA0D36#24 (withRegs [0, 0, 0, 0xFF, 0, 0, 0x83] false)) =
      some 1 := by decide

/-- V79: not taken, the pointer moves. -/
theorem test_ber :
    sees (fun t => (t.pc, t.phpl)) (go 0x520DD0#24 { withPointer 0x10FF with ch := 0x41 }) =
      some (0x0001, 0x1100) := by decide

/-- A3. -/
theorem test_bnr :
    sees State.pc (go 0x5A0D36#24 (withRegs [0, 0, 0, 0x02, 0, 0, 0x80] false)) =
      some 0x020D := by decide

/-- V81. -/
theorem test_bez :
    sees (fun t => (t.pc, t.phpl)) (go 0x520DEF#24 (withPointer 0x2000)) =
      some (0x020D, 0x2001) := by decide

/-- V80: the decrement wraps. -/
theorem test_bnz :
    sees (fun t => (t.pc, t.phpl)) (go 0xDA0D8F#24 State.reset) =
      some (1, 0xFFFF) := by decide

/-- V82. -/
theorem test_blrx :
    sees State.pc (go 0x461025#24 (withRegs [0, 0, 0xFF, 0, 0, 0, 1] false)) =
      some 0x0210 := by decide

/-- V83. -/
theorem test_blrx_not :
    sees State.pc (go 0x461025#24 (withRegs [0, 0, 0, 1, 0, 0xFF, 0] false)) =
      some 1 := by decide

/-- V84. -/
theorem test_blex :
    sees State.pc (go 0x4E1060#24 (withRegs [0x34, 0x12, 0, 0, 0, 0, 0x34, 0x12] false)) =
      some 0x0210 := by decide

/-- A4. -/
theorem test_xor :
    sees (fun t => (t.x 2, t.carry)) (go 0x848201#24 (withRegs [0x56, 0x78] false)) =
      some (0x2E, false) := by decide

/-- A4. -/
theorem test_and :
    sees (fun t => (t.x 2, t.carry)) (go 0x888201#24 (withRegs [0x9A, 0xBC] false)) =
      some (0x98, false) := by decide

/-- A4: C is no borrow. -/
theorem test_sbc :
    sees (fun t => (t.x 2, t.carry)) (go 0x0C8201#24 (withRegs [0x80, 0xFF] false)) =
      some (0x80, false) := by decide

/-- A4. -/
theorem test_sbc_set :
    sees (fun t => (t.x 2, t.carry)) (go 0x8CC201#24 (withRegs [0x80, 0x01] false)) =
      some (0x7F, true) := by decide

/-- A4. -/
theorem test_dac :
    sees (fun t => (t.x 2, t.carry)) (go 0x908201#24 (withRegs [0x56, 0x78] false)) =
      some (0x34, true) := by decide

/-- A4, digits above 9. -/
theorem test_dac_digits :
    sees (fun t => (t.x 2, t.carry)) (go 0x908201#24 (withRegs [0x80, 0xFF] false)) =
      some (0xE5, true) := by decide

/-- A4. -/
theorem test_dsc :
    sees (fun t => (t.x 2, t.carry)) (go 0x94C201#24 (withRegs [0x00, 0x01] false)) =
      some (0x98, true) := by decide

/-- A4, digits above 9. -/
theorem test_dsc_digits :
    sees (fun t => (t.x 2, t.carry)) (go 0x148201#24 (withRegs [0x80, 0xFF] false)) =
      some (0x2B, true) := by decide

/-- A4. -/
theorem test_adc :
    sees (fun t => (t.x 2, t.carry)) (go 0x98C201#24 (withRegs [0x80, 0xFF] false)) =
      some (0x80, true) := by decide

/-- A4. -/
theorem test_mul :
    sees (fun t => (t.x 2, t.carry)) (go 0x1C0201#24 (withRegs [0xAA, 0xAA] false)) =
      some (0x64, false) := by decide

/-- A4, V131. -/
theorem test_sdc :
    sees (fun t => (t.x 2, t.carry)) (go 0x844201#24 (withRegs [0x12, 0x34] false)) =
      some (0x41, false) := by decide

/-- V103. -/
theorem test_or_keeps_carry :
    sees (fun t => (t.x 2, t.carry)) (go 0x800201#24 (withRegs [0x0F, 0xF0] true)) =
      some (0xFF, true) := by decide

/-- V117: only bits 0, 1, 7 can be set. -/
theorem test_or_sh :
    sees State.sh (go 0x000D0F#24 (withRegs [0xFF] false)) =
      some 0x83 := by decide

/-- V118. -/
theorem test_and_sh :
    sees State.sh (go 0x880D0F#24 { withRegs [0xFF] false with sh := 0xFF }) =
      some 0x3C := by decide

/-- As V110 with R5 = 00: A is 00, the pointer wraps. -/
theorem test_adc_move :
    sees (fun t => (t.x 5, t.carry, t.phpl)) (go 0x9885E5#24 { withPointer 0xFFFF with sh := 1 }) =
      some (0x00, false, 0x0000) := by decide

/-- V128. -/
theorem test_mul_high :
    sees (fun t => (t.x 2, t.carry)) (go 0x9C8201#24 (withRegs [0x12, 0x34] true)) =
      some (0x06, true) := by decide

/-- V135. -/
theorem test_sdc_swap :
    sees (fun t => t.x 0) (go 0x844000#24 (withRegs [0xA5] false)) =
      some 0x5A := by decide

/-- A5. -/
theorem test_orx :
    sees (fun t => (t.x 5, t.x 4, t.carry)) (go 0x828402#24 (withRegs [0xBC, 0x9A, 0xEF, 0xCD] false)) =
      some (0xDF, 0xFF, false) := by decide

/-- A5. -/
theorem test_xorx :
    sees (fun t => (t.x 5, t.x 4, t.carry)) (go 0x068402#24 (withRegs [0xBC, 0x9A, 0xEF, 0xCD] false)) =
      some (0x57, 0x53, false) := by decide

/-- A5. -/
theorem test_andx :
    sees (fun t => (t.x 5, t.x 4, t.carry)) (go 0x0A8402#24 (withRegs [0x19, 0x55, 0x91, 0x55] false)) =
      some (0x55, 0x11, false) := by decide

/-- A5. -/
theorem test_sbcx :
    sees (fun t => (t.x 5, t.x 4, t.carry)) (go 0x0EC402#24 (withRegs [0xAA, 0x55, 0x55, 0xAA] false)) =
      some (0xAB, 0x55, false) := by decide

/-- A5. -/
theorem test_dacx :
    sees (fun t => (t.x 5, t.x 4, t.carry)) (go 0x92C402#24 (withRegs [0xAA, 0x55, 0x55, 0xAA] false)) =
      some (0x66, 0x66, true) := by decide

/-- A5. -/
theorem test_dscx :
    sees (fun t => (t.x 5, t.x 4, t.carry)) (go 0x968402#24 (withRegs [0x19, 0x55, 0x91, 0x55] false)) =
      some (0x99, 0x28, true) := by decide

/-- A5. -/
theorem test_adcx :
    sees (fun t => (t.x 5, t.x 4, t.carry)) (go 0x1AC402#24 (withRegs [0xAA, 0x55, 0x55, 0xAA] false)) =
      some (0x00, 0x00, true) := by decide

/-- A5. -/
theorem test_mulx :
    sees (fun t => (t.x 5, t.x 4, t.carry)) (go 0x9E0402#24 (withRegs [0xBC, 0x9A, 0xEF, 0xCD] false)) =
      some (0x82, 0xB4, false) := by decide

/-- A5. -/
theorem test_sdcx :
    sees (fun t => (t.x 5, t.x 4, t.carry)) (go 0x064402#24 (withRegs [0xBC, 0x9A, 0xEF, 0xCD] false)) =
      some (0xD9, 0xFB, false) := by decide

/-- R183, R197: 8080 + 8080 = 1 0100, A, B and the destination one pair. -/
theorem test_adcx_overlap :
    sees (fun t => (t.x 1, t.x 0, t.carry)) (go 0x9A8000#24 (withRegs [0x80, 0x80] false)) =
      some (0x01, 0x00, true) := by decide

/-- V167. -/
theorem test_iadc :
    sees (fun t => (t.x 2, t.carry)) (go 0xB80212#24 (withRegs [0, 0, 0xFF] false)) =
      some (0x00, true) := by decide

/-- V170. -/
theorem test_idac :
    sees (fun t => (t.x 2, t.carry)) (go 0x308252#24 (withRegs [0, 0, 0x38] true)) =
      some (0x64, false) := by decide

/-- V171. -/
theorem test_idsc :
    sees (fun t => (t.x 2, t.carry)) (go 0x354202#24 (withRegs [0, 0, 0x01] false)) =
      some (0x49, false) := by decide

/-- V173. -/
theorem test_idsc_borrow :
    sees (fun t => (t.x 2, t.carry)) (go 0xB40212#24 (withRegs [0, 0, 0x30] true)) =
      some (0x70, true) := by decide

/-- V182. -/
theorem test_ior :
    sees State.sh (go 0xA20D0D#24 { State.reset with sh := 0x08 }) =
      some 0x88 := by decide

/-- V24. -/
theorem test_set :
    sees (fun t => (t.k, t.dum)) (go 0x214E2F#24 State.reset) =
      some (0x52, 0x52) := by decide

/-- A1: the one's complement of K. -/
theorem test_ixor :
    sees State.k (go 0xA7CEFE#24 { State.reset with k := 0xAB }) =
      some 0x54 := by decide

/-- V29. -/
theorem test_iand :
    sees State.sh (go 0xAB8DDD#24 { State.reset with sh := 0xBF }) =
      some 0xBD := by decide

/-- R235: $20 + $F3, no carry in or out. -/
theorem test_iadd :
    sees (fun t => (t.x 0, t.carry)) (go 0xAC8000#24 (withRegs [0xF3] true)) =
      some (0x13, true) := by decide

/-- V174. -/
theorem test_imul :
    sees (fun t => (t.x 2, t.carry)) (go 0x3C0271#24 (withRegs [0, 0x96] true)) =
      some (0x2A, true) := by decide

/-- V175. -/
theorem test_imul_high :
    sees (fun t => t.x 2) (go 0xBC8271#24 (withRegs [0, 0x96] true)) =
      some 0x3F := by decide

/-- V192: AB is clocked before the event. -/
theorem test_cio :
    sees (fun t => (t.ab, t.sh, t.io)) (go 0x978F8C#24 { State.reset with k := 7, ab := 5 }) =
      some (0x07, 0x12, [⟨0x07, 0x07, true, true, true⟩]) := by decide

/-- V207. -/
theorem test_lpi :
    sees State.phpl (go 0x1D8BCD#24 (withPointer 0x5A5A)) =
      some 0xABCD := by decide

/-- V218. -/
theorem test_tpa :
    sees (fun t => (t.aux 31, t.phpl)) (go 0x81C7FF#24 (withPointer 0x1000)) =
      some (0x0FFD, 0x1000) := by decide

/-- V222. -/
theorem test_xpa :
    sees (fun t => (t.aux 3, t.phpl)) (go 0x83823F#24 { withPointer 0x1234 with ar := (Vector.replicate 32 0).set 3 0xABCD }) =
      some (0x1235, 0xABCD) := by decide

/-- V224. -/
theorem test_tap :
    sees State.phpl (go 0x8B803F#24 { withPointer 0x1234 with ar := (Vector.replicate 32 0).set 3 0xABCD }) =
      some 0xABCD := by decide

/-- V228. -/
theorem test_tps :
    sees State.stack (go 0x05C40F#24 (withPointer 0x1234)) =
      some [0x1232] := by decide

/-- V232. -/
theorem test_tsp :
    sees (fun t => (t.phpl, t.stack)) (go 0x8D800F#24 (withStack [0xBEEF, 0x0401])) =
      some (0xBEEF, [0x0401]) := by decide

/-- V235. -/
theorem test_rts :
    sees (fun t => (t.pc, t.stack)) (go 0x87800F#24 (withStack [0x0777, 0x0401])) =
      some (0x0777, [0x0401]) := by decide

/-- V243: RTS ,RC delivers the stored bits. -/
theorem test_rts_read :
    sees (fun t => (t.k, t.phpl, t.pc, t.stack)) (step { withStack [0x0FFE, 0x0402] with
      cm := [(0, 0x878600#24), (0x0FFE, 0xFFEEDD#24)] }) = some (0xFF, 0xEEDD, 0x0402, []) := by decide

/-- V239: the word RTS ,WC writes. -/
theorem test_rts_write : ({ withPointer 0x4F82 with k := 0xAB } : State).controlWord = 0x544F82 := by
  decide

/-! ## Steps that run no instruction, and stops -/

/-- V255, V257: even parity, whatever the word. -/
theorem test_pecm :
    go 0x988201#24 State.reset = .next { State.reset with cm := [(0, 0x988201#24)], pc := Config.pecmVector } ∧
    go 0x800A01#24 State.reset = .next { State.reset with cm := [(0, 0x800A01#24)], pc := Config.pecmVector } := ⟨rfl, rfl⟩

/-- V120, V44. -/
theorem test_illegal :
    faults (.illegalInstruction .destination) (go 0x000A01#24 State.reset) = true ∧
    faults (.illegalInstruction .jumpReserved) (go 0x55010A#24 State.reset) = true := by decide

/-- V42, V41, V230, V233, V237, V242. -/
theorem test_stack_faults :
    faults .stackOverflow (go 0xD50108#24 full) = true ∧
    sees State.pc (go 0xD50108#24 nearlyFull) = some 0x0901 ∧
    faults .stackOverflow (go 0x05800F#24 full) = true ∧
    faults .stackUnderflow (go 0x8D800F#24 State.reset) = true ∧
    faults .stackUnderflow (go 0x87800F#24 State.reset) = true ∧
    faults .stackUnderflow (go 0x078400#24 (withStack [0x0405])) = true := by decide

/-- V86, V114, V119, V183, V196. -/
theorem test_refused :
    refuses .xFormOperand (go 0x461070#24 State.reset) = true ∧
    refuses .pointerCollision (go 0x8008DF#24 State.reset) = true ∧
    refuses .carryCollision (go 0x980D01#24 State.reset) = true ∧
    refuses .carryCollision (go 0xB80D1D#24 State.reset) = true ∧
    refuses .cioWrite (go 0x17A200#24 State.reset) = true := by decide

/-- R312: K, IB9 and IBS; R317: the one-shot ends. -/
theorem test_environment :
    sees (fun t => (t.k, t.sh, t.env)) (step { State.reset with env := [.environment (.inputStrobe 0x41 true)] }) = some (0x41, 0x06, []) ∧
    sees State.sh (step { State.reset with sh := 0x10, env := [.environment .timerExpire] }) = some 0 := by decide

/-- What a fetch meets in the word that was placed (log 6). -/
theorem test_with_fetch_word : (State.reset.withFetchWord 24 0x188201).fetch = 0x188201#24 := by decide

/-! ## Witnesses: states and operands that meet the hypotheses of the obligations -/

/-- The instruction answers a next state. -/
def runs (i : Instr) (s : State) : Prop := ∃ t, exec i s = .next t

theorem witness_DecodeEncode :
    (Instr.adc .clear .w2 (.r 7) .chPlus .sh).wellFormed = true ∧
    (Instr.rts .read .rd true .zero).wellFormed = true := by decide

theorem witness_EncodeDecode :
    decode 0x98C201#24 = .ok (.adc .set .none (.r 2) (.r 0) (.r 1)) ∧
    oddParity 0x98C201#24 = true := ⟨rfl, by decide⟩

theorem witness_ParityBit :
    oddParity 0x988201#24 = false ∧
    oddParity 0x98C201#24 = true ∧
    decode 0x98C201#24 = .ok (.adc .set .none (.r 2) (.r 0) (.r 1)) := ⟨by decide, by decide, rfl⟩

theorem witness_JumpFormat :
    (0xDE6A08#24).extractLsb' 0 2 = 0#2 ∧
    (0xDE6A08#24).extractLsb' 18 5 = 0b10111#5 ∧
    (0xD50108#24).extractLsb' 0 2 = 0#2 ∧
    (0xD50108#24).extractLsb' 18 5 = 0b10101#5 := by decide

theorem witness_TestBranchFormats :
    (0x600362#24).extractLsb' 18 5 = 0b11000#5 ∧
    (0xE403A2#24).extractLsb' 18 5 = 0b11001#5 ∧
    (0xE80332#24).extractLsb' 18 5 = 0b11010#5 ∧
    (0x6C0352#24).extractLsb' 18 5 = 0b11011#5 ∧
    (0xF00352#24).extractLsb' 18 5 = 0b11100#5 ∧
    (0x740332#24).extractLsb' 18 5 = 0b11101#5 ∧
    (0x7803A2#24).extractLsb' 18 5 = 0b11110#5 ∧
    (0xFC03C2#24).extractLsb' 18 5 = 0b11111#5 := by decide

theorem witness_CompareBranchFormat :
    (0x420D36#24).extractLsb' 18 5 = 0b10000#5 ∧
    (0x461025#24).extractLsb' 18 5 = 0b10001#5 ∧
    (0xCA0D36#24).extractLsb' 18 5 = 0b10010#5 ∧
    (0xCE1025#24).extractLsb' 18 5 = 0b10011#5 ∧
    (0xD20D36#24).extractLsb' 18 5 = 0b10100#5 ∧
    (0x5A0D3F#24).extractLsb' 18 5 = 0b10110#5 ∧
    (0xD50108#24).extractLsb' 18 5 = 0b10101#5 ∧
    (0xDE6A08#24).extractLsb' 18 5 = 0b10111#5 ∧
    decode 0xD50108#24 = .ok (.jsr 0x0901) ∧
    decode 0xDE6A08#24 = .ok (.jmp 0x0A6A) := by
  exact ⟨by decide, by decide, by decide, by decide, by decide, by decide, by decide, by decide, rfl, rfl⟩

/-- The fields that the formats RA and SD (R97 to R99) branch on, and a legal destination. -/
def isReg (w : CWord) (op cc : Nat) : Bool :=
  w.extractLsb' 21 2 == 0#2 && w.getLsbD 16 == false && (w.extractLsb' 17 4).toNat == op &&
    (w.extractLsb' 14 2).toNat == cc && (Dest.ofCode (w.extractLsb' 8 4).toNat).isLegal

theorem witness_RegisterAluFormat :
    isReg 0x844402#24 2 1 = true ∧
    isReg 0x064402#24 3 1 = true ∧
    isReg 0x008201#24 0 2 = true ∧
    isReg 0x828402#24 1 2 = true ∧
    isReg 0x848201#24 2 2 = true ∧
    isReg 0x068402#24 3 2 = true ∧
    isReg 0x888201#24 4 2 = true ∧
    isReg 0x0A8402#24 5 2 = true ∧
    isReg 0x0C8201#24 6 2 = true ∧
    isReg 0x8E8402#24 7 2 = true ∧
    isReg 0x908201#24 8 2 = true ∧
    isReg 0x128402#24 9 2 = true ∧
    isReg 0x148201#24 10 2 = true ∧
    isReg 0x968402#24 11 2 = true ∧
    isReg 0x188201#24 12 2 = true ∧
    isReg 0x9A8402#24 13 2 = true ∧
    isReg 0x1C0201#24 14 0 = true ∧
    isReg 0x9E0402#24 15 0 = true := by decide

/-- The fields that the format IM (R109) branches on, and a legal destination. -/
def isImm (w : CWord) (op : Nat) : Bool :=
  (w.extractLsb' 18 5).toNat == op && (Dest.ofCode (w.extractLsb' 8 4).toNat).isLegal

theorem witness_ImmediateFormat :
    isImm 0x214E2F#24 8 = true ∧
    isImm 0xA3F200#24 8 = true ∧
    isImm 0xA7CEFE#24 9 = true ∧
    isImm 0xAB8DDD#24 10 = true ∧
    isImm 0x2CA000#24 11 = true ∧
    isImm 0x308252#24 12 = true ∧
    isImm 0x354202#24 13 = true ∧
    isImm 0xB80212#24 14 = true ∧
    isImm 0xBC8271#24 15 = true ∧
    (0xBC8271#24).extractLsb' 16 2 = 0#2 ∧
    (0xBC8271#24).getLsbD 14 = false := by decide

theorem witness_LpiFormat :
    (0x192103#24).extractLsb' 19 4 = 0b0011#4 ∧
    (0x192103#24).getLsbD 16 = true := by decide

theorem witness_AuxAndIoFormats :
    (0x81800F#24).extractLsb' 20 3 = 0#3 ∧
    (0x81800F#24).extractLsb' 15 2 = 0b11#2 ∧
    (0x81800F#24).extractLsb' 17 3 = 0#3 ∧
    (0x03800F#24).extractLsb' 20 3 = 0#3 ∧
    (0x03800F#24).extractLsb' 15 2 = 0b11#2 ∧
    (0x03800F#24).extractLsb' 17 3 = 1#3 ∧
    (0x05800F#24).extractLsb' 20 3 = 0#3 ∧
    (0x05800F#24).extractLsb' 15 2 = 0b11#2 ∧
    (0x05800F#24).extractLsb' 17 3 = 2#3 ∧
    (0x87800F#24).extractLsb' 20 3 = 0#3 ∧
    (0x87800F#24).extractLsb' 15 2 = 0b11#2 ∧
    (0x87800F#24).extractLsb' 17 3 = 3#3 ∧
    (0x8B800F#24).extractLsb' 20 3 = 0#3 ∧
    (0x8B800F#24).extractLsb' 15 2 = 0b11#2 ∧
    (0x8B800F#24).extractLsb' 17 3 = 5#3 ∧
    (0x8D800F#24).extractLsb' 20 3 = 0#3 ∧
    (0x8D800F#24).extractLsb' 15 2 = 0b11#2 ∧
    (0x8D800F#24).extractLsb' 17 3 = 6#3 ∧
    (0x05800F#24).extractLsb' 4 5 = 0#5 ∧
    (0x87800F#24).extractLsb' 4 5 = 0#5 ∧
    (0x87800F#24).getLsbD 14 = false ∧
    (0x8B800F#24).extractLsb' 9 2 = 0#2 ∧
    (0x8B800F#24).getLsbD 14 = false ∧
    (0x8D800F#24).extractLsb' 4 7 = 0#7 ∧
    (0x8D800F#24).getLsbD 14 = false ∧
    (0x17800C#24).extractLsb' 14 9 = 0b001011110#9 ∧
    (0x17800C#24).extractLsb' 4 3 = 0#3 ∧
    (0x17800C#24).extractLsb' 0 2 = 0#2 ∧
    (0x17800C#24).extractLsb' 2 2 = 3#2 := by decide

theorem witness_UnassignedEncodings :
    (0x01000F#24).extractLsb' 20 3 = 0#3 ∧
    (0x01000F#24).getLsbD 16 = true ∧
    (0x01000F#24).getLsbD 15 = false ∧
    (0x09800F#24).getLsbD 15 = true ∧
    (0x09800F#24).extractLsb' 17 3 = 4#3 ∧
    (0x0F800F#24).extractLsb' 17 3 = 7#3 ∧
    (0x85801F#24).extractLsb' 4 5 ≠ 0#5 ∧
    (0x07C00F#24).getLsbD 14 = true ∧
    (0x0B823F#24).extractLsb' 9 2 ≠ 0#2 ∧
    (0x8D801F#24).extractLsb' 4 7 ≠ 0#7 ∧
    (0x118000#24).extractLsb' 20 3 = 1#3 ∧
    (0x118000#24).getLsbD 16 = true ∧
    (0x118000#24).getLsbD 19 = false ∧
    (0x118000#24).extractLsb' 17 2 ≠ 3#2 ∧
    (0x97C000#24).extractLsb' 16 7 = 0b0010111#7 ∧
    (0x97C000#24).extractLsb' 14 2 ≠ 2#2 ∧
    (0x978004#24).extractLsb' 14 2 = 2#2 ∧
    (0x978004#24).extractLsb' 2 2 = 1#2 ∧
    (0x978010#24).extractLsb' 4 3 ≠ 0#3 ∧
    (0x5E6A09#24).extractLsb' 18 5 = 0b10111#5 ∧
    (0x5E6A09#24).extractLsb' 0 2 ≠ 0#2 ∧
    (0x55010A#24).extractLsb' 18 5 = 0b10101#5 ∧
    (0x000A01#24).extractLsb' 8 4 = 10#4 ∧
    (0x000A01#24).extractLsb' 21 2 = 0#2 ∧
    (0x000A01#24).extractLsb' 16 2 = 0#2 ∧
    (0x204A1F#24).extractLsb' 21 2 = 1#2 ∧
    (0xBC4271#24).extractLsb' 18 5 = 0b01111#5 ∧
    (0xBC4271#24).extractLsb' 8 4 ≠ 10#4 ∧
    (0xBC4271#24).extractLsb' 8 4 ≠ 11#4 ∧
    (0xBC4271#24).getLsbD 14 = true := by decide

/-- A state with the word of `JSR $0901` at pc. -/
def atJsr : State := { State.reset with cm := [(0, 0xD50108#24)] }

theorem witness_StepRunsDecoded :
    (Instr.jsr 0x0901).wellFormed = true ∧
    oddParity (Memory.get atJsr.cm atJsr.pc.toNat) = true ∧
    decode (Memory.get atJsr.cm atJsr.pc.toNat) = .ok (.jsr 0x0901) ∧
    atJsr.env = [] ∧
    ({ atJsr with env := [.processor] } : State).env = .processor :: [] := ⟨by decide, by decide, rfl, rfl, rfl⟩

theorem witness_BadWords :
    State.reset.env = [] ∧
    oddParity (Memory.get State.reset.cm State.reset.pc.toNat) = false ∧
    oddParity (Memory.get [(0, 0x000A01#24)] 0) = true ∧
    decode (Memory.get [(0, 0x000A01#24)] 0) = .error .destination := ⟨rfl, by decide, by decide, rfl⟩

/-- A state whose script begins with this step of the environment. -/
def withTurn (e : EnvStep) (v : Byte) : State := { State.reset with sh := v, env := [.environment e] }

theorem witness_EnvironmentSteps :
    (withTurn (.inputStrobe 0x41 true) 0).env = .environment (.inputStrobe 0x41 true) :: [] ∧
    (withTurn (.inputStrobe 0x41 true) 0).sh.getLsbD 1 = false ∧
    (withTurn (.inputStrobe 0x41 true) 2).sh.getLsbD 1 = true ∧
    (withTurn (.setReady true) 0).env = .environment (.setReady true) :: [] ∧
    (withTurn .timerExpire 0x10).env = .environment .timerExpire :: [] ∧
    (withTurn (.setHaltStep true) 0).env = .environment (.setHaltStep true) :: [] := by decide

theorem witness_SelfJumpRuns :
    atJsr.env = [] ∧
    Memory.get [(0, encode (.jmp 0))] 0 = encode (.jmp 0) := ⟨rfl, rfl⟩

theorem witness_StopReasons :
    (Instr.jsr 0x0901).wellFormed = true ∧
    exec (.jsr 0x0901) full = .fault .stackOverflow ∧
    (Instr.rts .read .none false .zero).wellFormed = true ∧
    exec (.rts .read .none false .zero) (withStack [1]) = .fault .stackUnderflow ∧
    (Instr.cio .w1 true true true true true true).wellFormed = true ∧
    exec (.cio .w1 true true true true true true) full = .refused .cioWrite := ⟨by decide, rfl, by decide, rfl, by decide, rfl⟩

theorem witness_BusTables :
    (15 : Nat) < 16 ∧
    (15 : Nat) ≠ 10 ∧
    (15 : Nat) ≠ 11 ∧
    (15 : Nat) ≠ 13 ∧
    Dest.ofCode 15 = .dum ∧
    ASrc.ofCode 15 = .zeroMinus := by decide

theorem witness_JsrResult :
    State.reset.stack.length < 96 ∧
    nearlyFull.stack.length < 96 := by decide

theorem witness_StackLimits :
    96 ≤ full.stack.length ∧
    State.reset.stack = [] ∧
    (withStack [1]).stack.length ≤ 1 ∧
    State.reset.stack.length ≤ 1 := by decide

theorem witness_RefusedXForms :
    6 < (ASrc.r 7).code ∧
    6 < (BSrc.pl).code ∧
    6 < (Dest.r 7).code ∧
    (Dest.r 6).code ≤ 6 ∧
    (ASrc.r 6).code ≤ 6 ∧
    (BSrc.r 6).code ≤ 6 ∧
    memWrites .w1 = true ∧
    memWrites .w2 = true ∧
    Instr.orx .set .w1 (.r 6) (.r 0) (.r 0) ∈ [Instr.orx .set .w1 (.r 6) (.r 0) (.r 0)] := by decide

theorem witness_RefusedCollisions :
    8 ≤ (ASrc.clMinus).code ∧
    (ASrc.clMinus).code ≠ 10 ∧
    (ASrc.zeroMinus).code ≠ 11 ∧
    8 ≤ (ASrc.zeroMinus).code ∧
    Instr.dsc .clear .rd .sh .cl .k ∈ [Instr.dsc .clear .rd .sh .cl .k] ∧
    (MemOp.w2 = .w1 ∨ MemOp.w2 = .w2) := by decide

theorem witness_LogicalResults :
    runs8 false .sh .chPlus ∧
    runs8 false .pl .ch ∧
    runs8 false (.r 7) .zeroMinus ∧
    runsImm false .sh ∧
    runsImm false .dum := by
  simp [runs8, runsImm, Dest.isLegal, isPointer, movesPointer]

theorem witness_BinaryAdd :
    runs8 true .ph (.r 0) ∧
    runs8 true .dum .chPlus ∧
    runsImm true .ph := by
  simp [runs8, runsImm, Dest.isLegal, isPointer, movesPointer]

theorem witness_BinarySubtract :
    runs8 true .ph (.r 0) ∧
    runs8 true .dum .chPlus := by
  simp [runs8, Dest.isLegal, isPointer, movesPointer]

theorem witness_DecimalResults :
    runs8 true .ph (.r 0) ∧
    runs8 true .dum .chPlus ∧
    runsImm true .ph := by
  simp [runs8, runsImm, Dest.isLegal, isPointer, movesPointer]

theorem witness_DecimalMeaning :
    runs8 true (.r 2) (.r 0) ∧
    isBcd (readA (.r 0) (withRegs [0x99, 0] false)) ∧
    isBcd (bValue .set (.r 1) (withRegs [0x99, 0] false)) ∧
    runsImm true (.r 2) ∧
    isBcd 0x90 ∧
    isBcd (readB (.r 0) (withRegs [0x99, 0] false)) := by
  refine ⟨by simp [runs8, Dest.isLegal, isPointer], ?_, ?_, by simp [runsImm, Dest.isLegal], ?_, ?_⟩ <;>
    exact ⟨by decide, by decide⟩

theorem witness_NibbleResults :
    runs8 false .sh .clMinus ∧
    runsImm false .sh := by
  simp [runs8, runsImm, Dest.isLegal, isPointer]

theorem witness_Alu8Frame :
    destOf (.mul .ahbh .w2 .sh .chPlus .k) = some .sh ∧
    runs (.mul .ahbh .w2 .sh .chPlus .k) State.reset ∧
    destOf (.iadc .rd .pl 0xFF .cl) = some .pl ∧
    runs (.iadc .rd .pl 0xFF .cl) State.reset := ⟨rfl, ⟨_, rfl⟩, rfl, ⟨_, rfl⟩⟩

theorem witness_LogicalXResults :
    memWrites .none = false ∧
    memWrites .rd = false := by decide

theorem witness_BinaryX :
    memWrites .none = false ∧
    memWrites .rd = false := by decide

theorem witness_DecimalXResults :
    memWrites .none = false ∧
    memWrites .rd = false := by decide

theorem witness_NibbleXResults :
    memWrites .none = false ∧
    memWrites .rd = false := by decide

theorem witness_Alu16Frame :
    destXOf (.dscx .set .rd (.r 6) (.r 0) (.r 6)) = some (.r (pairLow 6)) ∧
    runs (.dscx .set .rd (.r 6) (.r 0) (.r 6)) State.reset := ⟨rfl, ⟨_, rfl⟩⟩

theorem witness_CarryChain :
    pairLow 4 ≠ pairHigh 0 ∧
    pairLow 4 ≠ pairHigh 2 ∧
    pairLow 0 ≠ pairHigh 0 ∧
    (Instr.sbcx, Instr.sbc) ∈ [(Instr.sbcx, Instr.sbc)] := ⟨by decide, by decide, by decide, by simp⟩

theorem witness_CioResult :
    memWrites .none = false ∧
    memWrites .rd = false := by decide

theorem witness_StackTransfers :
    State.reset.stack.length < 96 ∧
    nearlyFull.stack.length < 96 ∧
    (withStack [0xBEEF]).stack = 0xBEEF :: [] := by decide

theorem witness_PlainReturn :
    CmCtl.noOp.code ≤ 1 ∧
    CmCtl.noOpAlt.code ≤ 1 ∧
    (withStack [0x0401]).stack = 0x0401 :: [] := by decide

theorem witness_WriteReturn :
    Memory.wf (withStack [1, 0x0405]).cm ∧
    (withStack [1, 0x0405]).stack = 1 :: 0x0405 :: [] := ⟨⟨List.Pairwise.nil, by simp [withStack, State.reset]⟩, rfl⟩

theorem witness_ReadReturn :
    (withStack [1, 0x0405]).stack = 1 :: 0x0405 :: [] := rfl

theorem witness_CallReturn :
    nearlyFull.stack.length < 96 := by decide

theorem witness_ComputedTransfer :
    nearlyFull.stack.length < 96 := by decide

theorem witness_ControlWordReadBack :
    Memory.wf (withStack [1, 2, 1, 3]).cm ∧
    (withStack [1, 2, 1, 3]).stack = 1 :: 2 :: 1 :: 3 :: [] := ⟨⟨List.Pairwise.nil, by simp [withStack, State.reset]⟩, rfl⟩

theorem witness_MemoryEffectOfEvery :
    runs (.lpi .rd 0xFFFF) State.reset ∧
    runs (.set .w1 .dum 0x55) State.reset ∧
    runs (.tpa .plus1 .w2 false 31 .k) State.reset ∧
    runs (.jmp 0) State.reset := ⟨⟨_, rfl⟩, ⟨_, rfl⟩, ⟨_, rfl⟩, ⟨_, rfl⟩⟩

theorem witness_NextPcOfEvery :
    isBranch (.lpi .rd 0xFFFF) = false ∧
    runs (.lpi .rd 0xFFFF) State.reset ∧
    isBranch (.rts .write .rd false .zero) = false ∧
    runs (.rts .write .rd false .zero) (withStack [1, 2]) := ⟨rfl, ⟨_, rfl⟩, rfl, ⟨_, rfl⟩⟩

theorem witness_StatusOwners :
    runs (.cio .rd true true true true true true) State.reset ∧
    runs (.ior .none .sh 0xFF .sh) State.reset ∧
    destOf (.adc .set .rd (.r 0) (.r 0) (.r 0)) ≠ some .sh ∧
    runs (.adc .set .rd (.r 0) (.r 0) (.r 0)) State.reset ∧
    destOf (.orx .set .none (.r 0) (.r 0) (.r 0)) ≠ some .sh ∧
    producesCarry (.orx .set .none (.r 0) (.r 0) (.r 0)) = false ∧
    runs (.orx .set .none (.r 0) (.r 0) (.r 0)) State.reset := ⟨⟨_, rfl⟩, ⟨_, rfl⟩, by decide, ⟨_, rfl⟩, by decide, rfl, ⟨_, rfl⟩⟩

theorem witness_RegisterOwners :
    runs (.cio .none true false false false false false) State.reset ∧
    runs (.xpa .same .none false 0 .zero) State.reset ∧
    runs (.rts .read .none false .zero) (withStack [1, 2]) ∧
    runs (.set .none .sl 0xFF) State.reset := ⟨⟨_, rfl⟩, ⟨_, rfl⟩, ⟨_, rfl⟩, ⟨_, rfl⟩⟩

theorem witness_ControlMemoryIsolated :
    ∀ mm x b, Instr.rts .noOp .none false .zero ≠ .rts .write mm x b ∧
    ∀ mm x b, Instr.rts .noOp .none false .zero ≠ .rts .read mm x b := by
  simp

theorem witness_UnwritableKept :
    ∃ t, step atJsr = .next t := ⟨_, rfl⟩

/-- Both bytes of the words at the boundary of the global region: $1FFF is in bank 0, $2000 in the bank of SL
(R63). -/
theorem test_bank_boundary (w : Byte) :
    physAddr w 0x1FFF = 0x1FFF ∧ physAddr w 0x2000 = (Config.bankOfSl w).val * 65536 + 0x2000 :=
  ⟨by simp [physAddr, bankFor], by simp [physAddr, bankFor]⟩

theorem witness_GlobalRegionAndBanks :
    runs (.lpi .rd 0x1FFF) State.reset ∧
    runs (.set .w2 .dum 0x55) (withPointer 0x1FFF) ∧
    runs (.lpi .rd 0x2000) State.reset ∧
    runs (.set .w1 .dum 0x55) (withPointer 0x2000) ∧
    latchOf (.lpi .rd 0x2000) State.reset = 0x2000 ∧
    latchOf (.set .w1 .dum 0x55) (withPointer 0x2000) = 0x2000 ∧
    memOpOf (.lpi .rd 0x1FFF) = .rd ∧
    memOpOf (.set .w1 .dum 0x55) = .w1 ∧
    memOpOf (.set .w2 .dum 0x55) = .w2 ∧
    Memory.wf (withPointer 0x2000).dm ∧
    (0 : Addr).toNat < 0x2000 ∧
    (0x1FFF : Addr).toNat < 0x2000 := ⟨⟨_, rfl⟩, ⟨_, rfl⟩, ⟨_, rfl⟩, ⟨_, rfl⟩, rfl, by decide, rfl, rfl, rfl,
    ⟨List.Pairwise.nil, by simp [withPointer, State.reset]⟩, by decide, by decide⟩

theorem witness_StoreThenLoad :
    Memory.wf State.reset.dm := ⟨List.Pairwise.nil, by simp [State.reset]⟩

theorem witness_InvariantKept :
    atJsr.Inv ∧ ∃ t, step atJsr = .next t := by
  refine ⟨⟨⟨List.Pairwise.nil, ?_⟩, ?_, ⟨List.pairwise_singleton _ _, ?_⟩, ?_, ?_⟩, ⟨_, rfl⟩⟩
  all_goals simp [atJsr, State.reset, Memory.unlisted]

end Sys2Proof.Tests
end

section
/-! PROOFS. The formats of the branches and jumps and of LPI (spec 30_encoding, R92 to R96, R108): what
the decoder reads from a word whose opcode bits are known. -/

namespace Sys2Proof

/-! ## Slices of a word -/

/-- A field inside a slice of known bits is that part of the bits. -/
theorem field_of_slice {w : CWord} {lo n : Nat} {v : BitVec n} (h : w.extractLsb' lo n = v)
    {k m : Nat} (hkm : k + m ≤ n) : field w (lo + k) m = v.toNat / 2 ^ k % 2 ^ m := by
  obtain ⟨r, rfl⟩ := Nat.exists_eq_add_of_le hkm
  rw [← h, ← field_eq_extract, field, field, Nat.pow_add, ← Nat.div_div_eq_div_mul, Nat.add_assoc,
    Nat.pow_add, Nat.mod_mul_right_div_self, Nat.pow_add, Nat.mod_mul_right_mod]

/-- A field read as a word of its own width is the slice. -/
theorem ofNat_field (w : CWord) (lo n : Nat) :
    BitVec.ofNat n (field w lo n) = w.extractLsb' lo n := by
  rw [field_eq_extract, BitVec.ofNat_toNat, BitVec.setWidth_eq]

/-- The number that two words side by side stand for. -/
theorem toNat_append_eq_mul_add {m n : Nat} (x : BitVec m) (y : BitVec n) :
    (x ++ y).toNat = x.toNat * 2 ^ n + y.toNat := by
  rw [BitVec.toNat_append, ← Nat.shiftLeft_add_eq_or_of_lt y.isLt, Nat.shiftLeft_eq]

/-- Of the B codes only 1111 names no register (R102, R116). -/
theorem BSrc.isRegister_ofCode (c : BitVec 4) :
    (BSrc.ofCode c.toNat).isRegister = true ↔ c ≠ 0xF#4 := by
  rw [BSrc.isRegister_iff, BSrc.code_ofCode c.isLt, Ne, Ne, BitVec.toNat_eq]
  rfl

/-- Code 1111 of B chooses between an instruction and its form without a second register (R96, R116). -/
theorem ite_isRegister_ofCode (c : BitVec 4) (i j : Instr) :
    (if (BSrc.ofCode c.toNat).isRegister then .ok i else .ok j : Except Illegal Instr) =
      .ok (if c = 0xF#4 then j else i) := by
  simp only [BSrc.isRegister_ofCode, ne_eq, ite_not]
  split <;> rfl

/-! ## The branches and jumps -/

/-- Bit 22 = 1 is the branches and jumps, told apart by bits 21:18 (R92). -/
theorem decode_of_branch_opcode {w : CWord} {op : BitVec 5} (h : w.extractLsb' 18 5 = op)
    (hop : 16 ≤ op.toNat) : decode w = decodeBranch w ∧ field w 18 4 = op.toNat % 16 := by
  have bit22 : field w 22 1 = 1 := by
    have slice := field_of_slice h (k := 4) (m := 1) (by omega)
    have := op.isLt
    rw [slice]
    omega
  have bits21to18 : field w 18 4 = op.toNat % 16 := by
    simpa using field_of_slice h (k := 0) (m := 4) (by omega)
  exact ⟨by rw [decode, if_pos bit22], bits21to18⟩

theorem decode_jmp_word {w : CWord} (h : w.extractLsb' 18 5 = 0b10111#5) :
    decode w = decodeJump w .jmp := by
  obtain ⟨hd, hf⟩ := decode_of_branch_opcode h (by decide)
  rw [hd, decodeBranch, hf]
  rfl

theorem decode_jsr_word {w : CWord} (h : w.extractLsb' 18 5 = 0b10101#5) :
    decode w = decodeJump w .jsr := by
  obtain ⟨hd, hf⟩ := decode_of_branch_opcode h (by decide)
  rw [hd, decodeBranch, hf]
  rfl

/-- The target of format BR is y and x side by side (R93). -/
theorem jump_target_eq_append (w : CWord) :
    BitVec.ofNat 16 (field w 2 6 * 1024 + field w 8 10) =
      w.extractLsb' 2 6 ++ w.extractLsb' 8 10 := by
  apply BitVec.eq_of_toNat_eq
  have := field_lt w 2 6
  have := field_lt w 8 10
  rw [toNat_append_eq_mul_add, BitVec.toNat_ofNat, ← field_eq_extract, ← field_eq_extract]
  omega

/-- Format BR with its printed zeros (R93). -/
theorem decodeJump_of_zeros {w : CWord} (h : w.extractLsb' 0 2 = 0#2) (i : Addr → Instr) :
    decodeJump w i = .ok (i (w.extractLsb' 2 6 ++ w.extractLsb' 8 10)) := by
  have zeros : field w 0 2 = 0 := by rw [field_eq_extract, h]; rfl
  rw [decodeJump, if_pos zeros, jump_target_eq_append]

/-- A word of format BR is that jump or no instruction. -/
theorem exists_target_of_decodeJump {w : CWord} {f : Addr → Instr} {i : Instr}
    (h : decodeJump w f = .ok i) : ∃ t, i = f t := by
  unfold decodeJump at h
  split at h
  · cases h; exact ⟨_, rfl⟩
  · cases h

/-- Settles O5: the opcode selects `decodeJump`, and the zeros make it the jump to y:x. -/
theorem jumpFormat : Obligations.JumpFormat := by
  refine ⟨fun w zeros => ⟨fun h => ?_, fun h => ?_⟩, rfl⟩
  · rw [decode_jmp_word h, decodeJump_of_zeros zeros]
  · rw [decode_jsr_word h, decodeJump_of_zeros zeros]

/-- Settles O6: each opcode is one row of `decodeBranch`. -/
theorem testBranchFormats : Obligations.TestBranchFormats := by
  intro w x c b
  refine ⟨?btl, ?bth, ?bfl, ?bfh, ?bel, ?beh, ?bnl, ?bnh⟩
  all_goals
    intro h
    obtain ⟨hd, hf⟩ := decode_of_branch_opcode h (by decide)
    rw [hd, decodeBranch, hf, ofNat_field, ofNat_field, field_eq_extract w 0 4]
    rfl

/-- Settles O7: each opcode is one row of `decodeBranch`; the code of B decides BEZ and BNZ, and the two
jumps are format BR. -/
theorem compareBranchFormat : Obligations.CompareBranchFormat := by
  intro w x a b
  refine ⟨?blr, ?blrx, ?bler, ?blex, ?ber, ?bnr, ?jsr, ?jmp⟩
  case jsr => exact fun h i hi => exists_target_of_decodeJump (decode_jsr_word h ▸ hi)
  case jmp => exact fun h i hi => exists_target_of_decodeJump (decode_jmp_word h ▸ hi)
  all_goals
    intro h
    obtain ⟨hd, hf⟩ := decode_of_branch_opcode h (by decide)
    rw [hd, decodeBranch, hf, ofNat_field, field_eq_extract w 4 4, field_eq_extract w 0 4]
  case ber | bnr => exact ite_isRegister_ofCode _ _ _
  all_goals rfl

/-! ## LPI -/

/-- Bits 22:19 = 0011 and bit 16 = 1 is LPI (R92, R108). -/
theorem decode_lpi_word {w : CWord} (h : w.extractLsb' 19 4 = 0b0011#4) (h16 : w.getLsbD 16 = true) :
    decode w = .ok (.lpi (MemOp.ofCode (field w 12 2))
      (BitVec.ofNat 16 (field w 17 2 * 2 ^ 14 + field w 14 2 * 2 ^ 12 + field w 0 12))) := by
  have bit22 : field w 22 1 = 0 := field_of_slice h (k := 3) (by omega)
  have bit21 : field w 21 1 = 0 := field_of_slice h (k := 2) (by omega)
  have bit20 : field w 20 1 = 1 := field_of_slice h (k := 1) (by omega)
  have bit19 : field w 19 1 = 1 := field_of_slice h (k := 0) (by omega)
  have bit16 : field w 16 1 = 1 := by rw [field_one, h16]; rfl
  simp [decode, decodeIo, bit22, bit21, bit20, bit19, bit16]

/-- The three parts of the address of LPI side by side (R108). -/
theorem lpi_address_eq_append (w : CWord) :
    BitVec.ofNat 16 (field w 17 2 * 2 ^ 14 + field w 14 2 * 2 ^ 12 + field w 0 12) =
      w.extractLsb' 17 2 ++ (w.extractLsb' 14 2 ++ w.extractLsb' 0 12) := by
  apply BitVec.eq_of_toNat_eq
  have := field_lt w 17 2
  have := field_lt w 14 2
  have := field_lt w 0 12
  rw [toNat_append_eq_mul_add, toNat_append_eq_mul_add, BitVec.toNat_ofNat, ← field_eq_extract,
    ← field_eq_extract, ← field_eq_extract]
  omega

/-- Settles O10: the opcode bits lead to the row of LPI in `decodeIo`, whose address is the three slices
side by side; the printed words are evaluated. -/
theorem lpiFormat : Obligations.LpiFormat := by
  refine ⟨fun w h h16 => ?_, rfl, rfl, rfl⟩
  rw [decode_lpi_word h h16, field_eq_extract w 12 2, lpi_address_eq_append]

end Sys2Proof
end

section
/-! PROOFS. The jumps (spec 40_branch): what JMP does, and its word in both directions. -/

namespace Sys2Proof.Machine

/-- JMP is always executed, and only pc changes (R131). -/
theorem exec_jmp (target : Addr) (s : State) :
    exec (.jmp target) s = .next { s with pc := target } := rfl

/-- Bits 22:0 of JMP: the fixed part `5C0000`, x in bits 17:8 and y in bits 7:2 (R93, R131). -/
theorem encodeBody_jmp (target : Addr) :
    encodeBody (.jmp target) =
      0x5C0000 + target.toNat % 1024 * 0x100 + target.toNat / 1024 * 4 := rfl

/-- A word with the opcode of JMP and the zeros of format BR is the JMP to y:x (R93). -/
theorem decode_jmp_of_zeros {w : CWord} (opcode : w.extractLsb' 18 5 = 0b10111#5)
    (zeros : w.extractLsb' 0 2 = 0#2) :
    decode w = .ok (.jmp (w.extractLsb' 2 6 ++ w.extractLsb' 8 10)) := by
  rw [decode_jmp_word opcode, decodeJump_of_zeros zeros]

/-- Settles O19: execution and encoding are one equation each, and the three worked examples are words
of format BR with the opcode of JMP. -/
theorem jmpResult : Obligations.JmpResult :=
  ⟨exec_jmp, encodeBody_jmp, decode_jmp_of_zeros (by decide) (by decide),
    decode_jmp_of_zeros (by decide) (by decide), decode_jmp_of_zeros (by decide) (by decide)⟩

end Sys2Proof.Machine
end

section
/-! PROOFS. The two directions of the encoding (spec 30_encoding, R91 to R109): the fields of an
assembled word are those of its format's body, and a word that decodes is put together from its own
fields. -/

namespace Sys2Proof

/-- A field inside a field. -/
theorem field_in_field (w : CWord) (lo : Nat) {k m n : Nat} (h : k + m ≤ n) :
    field w (lo + k) m = field w lo n / 2 ^ k % 2 ^ m := by
  rw [field_of_slice rfl h, ← field_eq_extract]

/-! ## Fields side by side -/

/-- The number whose fields, lowest first, have these widths and values. -/
def packed : List (Nat × Nat) → Nat
  | [] => 0
  | (width, value) :: rest => value + 2 ^ width * packed rest

/-- The bit where field `k` begins. -/
def offset (fs : List (Nat × Nat)) (k : Nat) : Nat := ((fs.take k).map Prod.fst).sum

/-- Bits 22 to 0 are these fields, lowest first, and every value fits its width. -/
structure Layout (body : Nat) (fs : List (Nat × Nat)) : Prop where
  eq : body = packed fs
  fits : ∀ f ∈ fs, f.2 < 2 ^ f.1
  width : (fs.map Prod.fst).sum = 23

/-- Field `k` of a packed number is the value packed there. -/
theorem packed_field {fs : List (Nat × Nat)} (h : ∀ f ∈ fs, f.2 < 2 ^ f.1) (k : Nat) :
    packed fs / 2 ^ offset fs k % 2 ^ (fs.getD k (0, 0)).1 = (fs.getD k (0, 0)).2 := by
  induction fs generalizing k with
  | nil => simp [packed, Nat.mod_one]
  | cons f rest ih =>
    have hf : f.2 < 2 ^ f.1 := h f (by simp)
    cases k with
    | zero => simp [offset, packed, Nat.mod_eq_of_lt hf]
    | succ k =>
      have above : packed (f :: rest) / 2 ^ f.1 = packed rest := by
        simp [packed, Nat.add_mul_div_left _ _ (Nat.two_pow_pos f.1), Nat.div_eq_of_lt hf]
      have start : offset (f :: rest) (k + 1) = f.1 + offset rest k := by simp [offset]
      rw [start, Nat.pow_add, ← Nat.div_div_eq_div_mul, above]
      exact ih (fun g hg => h g (List.mem_cons_of_mem _ hg)) k

theorem offset_add_width_le (fs : List (Nat × Nat)) (k : Nat) :
    offset fs k + (fs.getD k (0, 0)).1 ≤ (fs.map Prod.fst).sum := by
  induction fs generalizing k with
  | nil => simp [offset]
  | cons f rest ih =>
    cases k with
    | zero => simp [offset]
    | succ k => simpa [offset, Nat.add_assoc] using ih k

/-- A field of an assembled word, by its place in the layout of the body. -/
theorem Layout.field {body : Nat} {fs : List (Nat × Nat)} (h : Layout body fs) (k : Nat) :
    field (withParity body) (offset fs k) (fs.getD k (0, 0)).1 = (fs.getD k (0, 0)).2 := by
  rw [field_withParity (h.width ▸ offset_add_width_le fs k), h.eq, packed_field h.fits]

/-! ## The fields of an assembled word, format by format -/

/-- Formats RA and SD (R97, R99). -/
theorem fields_bodyReg {aaa x cc : Nat} (mm : MemOp) (d : Dest) (a : ASrc) (b : BSrc)
    (haaa : aaa < 8) (hx : x < 2) (hcc : cc < 4) :
    let w := withParity (bodyReg aaa x cc mm d a b)
    decode w = decodeRegAlu w ∧ field w 18 3 = aaa ∧ field w 17 1 = x ∧ field w 14 2 = cc ∧
      field w 12 2 = mm.code ∧ field w 8 4 = d.code ∧ field w 4 4 = a.code ∧
      field w 0 4 = b.code := by
  intro w
  have layout : Layout (bodyReg aaa x cc mm d a b) [(4, b.code), (4, a.code), (4, d.code),
      (2, mm.code), (2, cc), (1, 0), (1, x), (3, aaa), (1, 0), (1, 0)] :=
    ⟨by simp only [bodyReg, packed]; omega,
      by simp [b.code_lt, a.code_lt, d.code_lt, mm.code_lt, haaa, hx, hcc], rfl⟩
  have bit22 : field w 22 1 = 0 := layout.field 9
  have bit21 : field w 21 1 = 0 := layout.field 8
  have bit16 : field w 16 1 = 0 := layout.field 5
  exact ⟨by simp [decode, bit22, bit21, bit16], layout.field 7, layout.field 6, layout.field 4,
    layout.field 3, layout.field 2, layout.field 1, layout.field 0⟩

/-- Format IM (R109). -/
theorem fields_bodyImm {aaa : Nat} (mm : MemOp) (d : Dest) (imm : Byte) (b : BSrc)
    (haaa : aaa < 8) :
    let w := withParity (bodyImm aaa mm d imm b)
    decode w = decodeImm w ∧ field w 18 3 = aaa ∧ field w 14 4 = imm.toNat / 16 ∧
      field w 12 2 = mm.code ∧ field w 8 4 = d.code ∧ field w 4 4 = imm.toNat % 16 ∧
      field w 0 4 = b.code := by
  intro w
  have high : imm.toNat / 16 < 16 := by have := imm.isLt; omega
  have low : imm.toNat % 16 < 16 := Nat.mod_lt _ (by decide)
  have layout : Layout (bodyImm aaa mm d imm b) [(4, b.code), (4, imm.toNat % 16), (4, d.code),
      (2, mm.code), (4, imm.toNat / 16), (3, aaa), (1, 1), (1, 0)] :=
    ⟨by simp only [bodyImm, packed]; omega,
      by simp [b.code_lt, low, d.code_lt, mm.code_lt, high, haaa], rfl⟩
  have bit22 : field w 22 1 = 0 := layout.field 7
  have bit21 : field w 21 1 = 1 := layout.field 6
  exact ⟨by simp [decode, bit22, bit21], layout.field 5, layout.field 4, layout.field 3,
    layout.field 2, layout.field 1, layout.field 0⟩

/-- Formats MB, VB and RC (R94 to R96). -/
theorem fields_bodyBranch {op n : Nat} (x : BitVec 10) (b : BSrc) (hop : op < 16) (hn : n < 16) :
    let w := withParity (bodyBranch op x n b)
    decode w = decodeBranch w ∧ field w 18 4 = op ∧ field w 8 10 = x.toNat ∧ field w 4 4 = n ∧
      field w 0 4 = b.code := by
  intro w
  have layout : Layout (bodyBranch op x n b)
      [(4, b.code), (4, n), (10, x.toNat), (4, op), (1, 1)] :=
    ⟨by simp only [bodyBranch, packed]; omega, by simp [b.code_lt, hn, x.isLt, hop], rfl⟩
  have bit22 : field w 22 1 = 1 := layout.field 4
  exact ⟨by simp [decode, bit22], layout.field 3, layout.field 2, layout.field 1, layout.field 0⟩

/-- Format BR (R93). -/
theorem fields_bodyJump {op : Nat} (t : Addr) (hop : op < 16) :
    let w := withParity (bodyJump op t)
    decode w = decodeBranch w ∧ field w 18 4 = op ∧ field w 8 10 = t.toNat % 1024 ∧
      field w 2 6 = t.toNat / 1024 ∧ field w 0 2 = 0 := by
  intro w
  have y : t.toNat / 1024 < 64 := by have := t.isLt; omega
  have x : t.toNat % 1024 < 1024 := Nat.mod_lt _ (by decide)
  have layout : Layout (bodyJump op t)
      [(2, 0), (6, t.toNat / 1024), (10, t.toNat % 1024), (4, op), (1, 1)] :=
    ⟨by simp only [bodyJump, packed]; omega, by simp [y, x, hop], rfl⟩
  have bit22 : field w 22 1 = 1 := layout.field 4
  exact ⟨by simp [decode, bit22], layout.field 3, layout.field 2, layout.field 1, layout.field 0⟩

/-- Format MI (R100). -/
theorem fields_bodyAux {fff p r : Nat} (mm : MemOp) (x : Bool) (b : BSrc) (hfff : fff < 8)
    (hp : p < 8) (hr : r < 32) :
    let w := withParity (bodyAux fff p mm x r b)
    decode w = decodeAux w ∧ field w 17 3 = fff ∧ field w 15 1 = 1 ∧ field w 14 1 = p / 4 ∧
      field w 12 2 = mm.code ∧ field w 11 1 = x.toNat ∧ field w 9 2 = p % 4 ∧ field w 4 5 = r ∧
      field w 0 4 = b.code := by
  intro w
  have upper : p / 4 < 2 := by omega
  have lower : p % 4 < 4 := Nat.mod_lt _ (by decide)
  have layout : Layout (bodyAux fff p mm x r b) [(4, b.code), (5, r), (2, p % 4), (1, x.toNat),
      (2, mm.code), (1, p / 4), (1, 1), (1, 1), (3, fff), (1, 0), (1, 0), (1, 0)] :=
    ⟨by simp only [bodyAux, packed]; omega,
      by simp [b.code_lt, hr, lower, x.toNat_lt, mm.code_lt, upper, hfff], rfl⟩
  have bit22 : field w 22 1 = 0 := layout.field 11
  have bit21 : field w 21 1 = 0 := layout.field 10
  have bit20 : field w 20 1 = 0 := layout.field 9
  have bit16 : field w 16 1 = 1 := layout.field 7
  exact ⟨by simp [decode, bit22, bit21, bit20, bit16], layout.field 8, layout.field 6,
    layout.field 5, layout.field 4, layout.field 3, layout.field 2, layout.field 1, layout.field 0⟩

/-- Format LP (R108). -/
theorem fields_bodyLpi (mm : MemOp) (t : Addr) :
    let w := withParity (bodyLpi mm t)
    decode w = decodeIo w ∧ field w 19 1 = 1 ∧ field w 17 2 = t.toNat / 2 ^ 14 ∧
      field w 14 2 = t.toNat / 2 ^ 12 % 4 ∧ field w 12 2 = mm.code ∧
      field w 0 12 = t.toNat % 2 ^ 12 := by
  intro w
  have h1 : t.toNat / 2 ^ 14 < 4 := by have := t.isLt; omega
  have h2 : t.toNat / 2 ^ 12 % 4 < 4 := Nat.mod_lt _ (by decide)
  have h3 : t.toNat % 2 ^ 12 < 2 ^ 12 := Nat.mod_lt _ (by decide)
  have layout : Layout (bodyLpi mm t) [(12, t.toNat % 2 ^ 12), (2, mm.code),
      (2, t.toNat / 2 ^ 12 % 4), (1, 1), (2, t.toNat / 2 ^ 14), (1, 1), (1, 1), (1, 0), (1, 0)] :=
    ⟨by simp only [bodyLpi, packed]; omega, by simpa [mm.code_lt] using ⟨h3, h2, h1⟩, rfl⟩
  have bit22 : field w 22 1 = 0 := layout.field 8
  have bit21 : field w 21 1 = 0 := layout.field 7
  have bit20 : field w 20 1 = 1 := layout.field 6
  have bit16 : field w 16 1 = 1 := layout.field 3
  exact ⟨by simp [decode, bit22, bit21, bit20, bit16], layout.field 5, layout.field 4,
    layout.field 2, layout.field 1, layout.field 0⟩

/-- Format IO (R107). -/
theorem fields_bodyCio (mm : MemOp) (clk abs obs cbs srs tim : Bool) :
    let w := withParity (bodyCio mm clk abs obs cbs srs tim)
    decode w = decodeCio w ∧ field w 14 2 = 2 ∧ field w 12 2 = mm.code ∧
      field w 11 1 = clk.toNat ∧ field w 10 1 = abs.toNat ∧ field w 9 1 = obs.toNat ∧
      field w 8 1 = cbs.toNat ∧ field w 7 1 = srs.toNat ∧ field w 4 3 = 0 ∧
      field w 2 2 = tim.toNat * 3 ∧ field w 0 2 = 0 := by
  intro w
  have z : tim.toNat * 3 < 4 := by have := tim.toNat_lt; omega
  have layout : Layout (bodyCio mm clk abs obs cbs srs tim) [(2, 0), (2, tim.toNat * 3), (3, 0),
      (1, srs.toNat), (1, cbs.toNat), (1, obs.toNat), (1, abs.toNat), (1, clk.toNat),
      (2, mm.code), (2, 2), (1, 1), (2, 3), (1, 0), (1, 1), (1, 0), (1, 0)] :=
    ⟨by simp only [bodyCio, packed]; omega, by simpa [mm.code_lt, z] using
        ⟨srs.toNat_le, cbs.toNat_le, obs.toNat_le, abs.toNat_le, clk.toNat_le⟩, rfl⟩
  have bit22 : field w 22 1 = 0 := layout.field 15
  have bit21 : field w 21 1 = 0 := layout.field 14
  have bit20 : field w 20 1 = 1 := layout.field 13
  have bit19 : field w 19 1 = 0 := layout.field 12
  have bits18to17 : field w 17 2 = 3 := layout.field 11
  have bit16 : field w 16 1 = 1 := layout.field 10
  exact ⟨by simp [decode, decodeIo, bit22, bit21, bit20, bit19, bits18to17, bit16],
    layout.field 9, layout.field 8, layout.field 7, layout.field 6, layout.field 5,
    layout.field 4, layout.field 3, layout.field 2, layout.field 1, layout.field 0⟩

/-! ## Decoding an assembled word, format by format -/

/-- A word of format RA or SD is decoded by its fields (R97, R99). -/
theorem decode_bodyReg {aaa x cc : Nat} (mm : MemOp) (d : Dest) (a : ASrc) (b : BSrc)
    (haaa : aaa < 8) (hx : x < 2) (hcc : cc < 4) :
    decode (withParity (bodyReg aaa x cc mm d a b)) =
      if x = 1 then .ok (decodeRegX aaa cc mm d a b)
      else if d.isLegal then .ok (decodeReg8 aaa cc mm d a b) else .error .destination := by
  obtain ⟨family, f18, f17, f14, f12, f8, f4, f0⟩ := fields_bodyReg mm d a b haaa hx hcc
  simp [family, decodeRegAlu, f18, f17, f14, f12, f8, f4, f0]

/-- The two nibbles of a constant side by side. -/
theorem ofNat_nibbles (imm : Byte) :
    BitVec.ofNat 8 (imm.toNat / 16 * 16 + imm.toNat % 16) = imm := by
  rw [Nat.div_add_mod', BitVec.ofNat_toNat, BitVec.setWidth_eq]

/-- A word of format IM with a legal destination is decoded by its row (R109). -/
theorem decode_bodyImm {aaa : Nat} {mm : MemOp} {d : Dest} {imm : Byte} {b : BSrc} {i : Instr}
    (haaa : aaa < 8) (hd : d.isLegal = true)
    (row : ∀ w, field w 18 3 = aaa → field w 14 4 = imm.toNat / 16 →
      field w 4 4 = imm.toNat % 16 → decodeImmLegal w mm d imm b = .ok i) :
    decode (withParity (bodyImm aaa mm d imm b)) = .ok i := by
  obtain ⟨family, f18, f14, f12, f8, f4, f0⟩ := fields_bodyImm mm d imm b haaa
  simp [family, decodeImm, f14, f12, f8, f4, f0, hd, ofNat_nibbles, row _ f18 f14 f4]

/-- A word of formats MB, VB and RC is decoded by its row (R94 to R96). -/
theorem decode_bodyBranch {op n : Nat} {x : BitVec 10} {b : BSrc} {i : Instr} (hop : op < 16)
    (hn : n < 16) (row : ∀ w, field w 18 4 = op → field w 8 10 = x.toNat → field w 4 4 = n →
      field w 0 4 = b.code → decodeBranch w = .ok i) :
    decode (withParity (bodyBranch op x n b)) = .ok i := by
  obtain ⟨family, f18, f8, f4, f0⟩ := fields_bodyBranch x b hop hn
  rw [family, row _ f18 f8 f4 f0]

/-- A word of format BR is decoded by its row (R93). -/
theorem decode_bodyJump {op : Nat} {t : Addr} {i : Addr → Instr} (hop : op < 16)
    (row : ∀ w, field w 18 4 = op → decodeBranch w = decodeJump w i) :
    decode (withParity (bodyJump op t)) = .ok (i t) := by
  obtain ⟨family, f18, f8, f2, f0⟩ := fields_bodyJump t hop
  simp [family, row _ f18, decodeJump, f8, f2, f0, Nat.div_add_mod']

/-- A word of format MI is decoded by its row (R100). -/
theorem decode_bodyAux {fff p r : Nat} {mm : MemOp} {x : Bool} {b : BSrc} {i : Instr}
    (hfff : fff < 8) (hp : p < 8) (hr : r < 32)
    (row : ∀ w, field w 17 3 = fff → field w 15 1 = 1 → field w 14 1 = p / 4 →
      field w 12 2 = mm.code → field w 11 1 = x.toNat → field w 9 2 = p % 4 → field w 4 5 = r →
      field w 0 4 = b.code → decodeAux w = .ok i) :
    decode (withParity (bodyAux fff p mm x r b)) = .ok i := by
  obtain ⟨family, f17, f15, f14, f12, f11, f9, f4, f0⟩ := fields_bodyAux mm x b hfff hp hr
  rw [family, row _ f17 f15 f14 f12 f11 f9 f4 f0]

/-- LPI (R108). -/
theorem decode_bodyLpi (mm : MemOp) (t : Addr) :
    decode (withParity (bodyLpi mm t)) = .ok (.lpi mm t) := by
  obtain ⟨family, f19, f17, f14, f12, f0⟩ := fields_bodyLpi mm t
  have address :
      t.toNat / 2 ^ 14 * 2 ^ 14 + t.toNat / 2 ^ 12 % 4 * 2 ^ 12 + t.toNat % 2 ^ 12 = t.toNat := by
    omega
  rw [family, decodeIo, if_pos f19, f17, f14, f12, f0, address, BitVec.ofNat_toNat,
    BitVec.setWidth_eq, MemOp.ofCode_code]

/-- A bit of a field, read as the decoder reads it. -/
@[simp] theorem toNat_beq_one (b : Bool) : (b.toNat == 1) = b := by cases b <;> rfl

/-- CIO (R107). -/
theorem decode_bodyCio (mm : MemOp) (clk abs obs cbs srs tim : Bool) :
    decode (withParity (bodyCio mm clk abs obs cbs srs tim)) =
      .ok (.cio mm clk abs obs cbs srs tim) := by
  obtain ⟨family, f14, f12, f11, f10, f9, f8, f7, f4, f2, f0⟩ :=
    fields_bodyCio mm clk abs obs cbs srs tim
  rw [family, decodeCio, f14, f12, f11, f10, f9, f8, f7, f4, f2, f0]
  cases tim <;> simp

/-- The row of IMUL: its constant has the nibble selection in bit 5 and the factor in bits 3:0
(R109). -/
theorem decodeImmLegal_imul {w : CWord} {high : Bool} {mm : MemOp} {d : Dest} {n : Nibble}
    {imm : Byte} {b : BSrc} (f18 : field w 18 3 = 7)
    (f14 : field w 14 4 = (BitVec.ofNat 8 (high.toNat * 32 + n.toNat)).toNat / 16)
    (f4 : field w 4 4 = (BitVec.ofNat 8 (high.toNat * 32 + n.toNat)).toNat % 16) :
    decodeImmLegal w mm d imm b = .ok (.imul high mm d n b) := by
  have hn := n.isLt
  have hh := high.toNat_lt
  rw [BitVec.toNat_ofNat] at f14 f4
  have f16 : field w 16 2 = 0 := by
    rw [field_in_field w 14 (k := 2) (m := 2) (n := 4) (by decide), f14]; omega
  have bit15 : field w 15 1 = high.toNat := by
    rw [field_in_field w 14 (k := 1) (m := 1) (n := 4) (by decide), f14]; omega
  have bit14 : field w 14 1 = 0 := by
    rw [field_in_field w 14 (k := 0) (m := 1) (n := 4) (by decide), f14]; omega
  have factor : field w 4 4 = n.toNat := by omega
  simp [decodeImmLegal, f18, f16, bit15, bit14, factor]

/-- Settles O2: every instruction is encoded in one format, and the fields of the assembled word
lead the decoder to the instruction's own row. -/
theorem decodeEncode : Obligations.DecodeEncode := by
  intro i wf
  cases i with
  | jmp t | jsr t => exact decode_bodyJump (by decide) fun w f18 => by simp [decodeBranch, f18]
  | btl x c b | bth x c b | bfl x c b | bfh x c b | bel x c b | beh x c b | bnl x c b
  | bnh x c b =>
    exact decode_bodyBranch (by decide) c.isLt fun w f18 f8 f4 f0 => by
      simp [decodeBranch, f18, f8, f4, f0]
  | blr x a b | blrx x a b | bler x a b | blex x a b =>
    exact decode_bodyBranch (by decide) a.code_lt fun w f18 f8 f4 f0 => by
      simp [decodeBranch, f18, f8, f4, f0]
  | ber x a b | bnr x a b =>
    exact decode_bodyBranch (by decide) a.code_lt fun w f18 f8 f4 f0 => by
      have hb : b.isRegister = true := wf
      simp [decodeBranch, f18, f8, f4, f0, hb]
  | bez x a | bnz x a =>
    exact decode_bodyBranch (by decide) a.code_lt fun w f18 f8 f4 f0 => by
      simp [decodeBranch, f18, f8, f4, f0, BSrc.isRegister]
  | or cc mm d a b | xor cc mm d a b | and cc mm d a b | sbc cc mm d a b =>
    simp only [Instr.wellFormed, Bool.and_eq_true, CarryCtl.isPermittedLogical_iff] at wf
    simp [encode, encodeBody, decode_bodyReg, decodeReg8, cc.code_lt, wf]
  | orx cc mm d a b | xorx cc mm d a b | andx cc mm d a b | sbcx cc mm d a b =>
    simp only [Instr.wellFormed, CarryCtl.isPermittedLogical_iff] at wf
    simp [encode, encodeBody, decode_bodyReg, decodeRegX, cc.code_lt, wf]
  | dac cc mm d a b | dsc cc mm d a b | adc cc mm d a b =>
    have hd : d.isLegal = true := wf
    simp [encode, encodeBody, decode_bodyReg, decodeReg8, cc.code_lt, hd]
  | dacx cc mm d a b | dscx cc mm d a b | adcx cc mm d a b =>
    simp [encode, encodeBody, decode_bodyReg, decodeRegX, cc.code_lt]
  | mul n mm d a b =>
    have hd : d.isLegal = true := wf
    simp [encode, encodeBody, decode_bodyReg, decodeReg8, n.code_lt, hd]
  | mulx n mm d a b => simp [encode, encodeBody, decode_bodyReg, decodeRegX, n.code_lt]
  | sdc n mm d a b =>
    have hd : d.isLegal = true := wf
    have hn : n.code < 8 := by have := n.code_lt; omega
    simp [encode, encodeBody, decode_bodyReg, decodeReg8, hn, n.code_lt, hd]
  | sdcx n mm d a b =>
    have hn : n.code < 8 := by have := n.code_lt; omega
    simp [encode, encodeBody, decode_bodyReg, decodeRegX, hn, n.code_lt]
  | ior mm d imm b =>
    simp only [Instr.wellFormed, Bool.and_eq_true] at wf
    exact decode_bodyImm (by decide) wf.1 fun w f18 _ _ => by simp [decodeImmLegal, f18, wf.2]
  | set mm d imm =>
    exact decode_bodyImm (by decide) wf fun w f18 _ _ => by
      simp [decodeImmLegal, f18, BSrc.isRegister]
  | ixor mm d imm b | iand mm d imm b | iadd mm d imm b | idac mm d imm b | idsc mm d imm b
  | iadc mm d imm b =>
    exact decode_bodyImm (by decide) wf fun w f18 _ _ => by simp [decodeImmLegal, f18]
  | imul high mm d n b =>
    exact decode_bodyImm (by decide) wf fun w f18 f14 f4 => decodeImmLegal_imul f18 f14 f4
  | cio mm clk abs obs cbs srs tim => exact decode_bodyCio mm clk abs obs cbs srs tim
  | lpi mm t => exact decode_bodyLpi mm t
  | tpa p mm x r b | xpa p mm x r b =>
    exact decode_bodyAux (by decide) p.code_lt r.isLt fun w f17 f15 f14 f12 f11 f9 f4 f0 => by
      simp [decodeAux, f17, f15, f14, f12, f11, f9, f4, f0, Nat.div_add_mod']
  | tps p mm x b =>
    exact decode_bodyAux (by decide) p.code_lt (by decide) fun w f17 f15 f14 f12 f11 f9 f4 f0 => by
      simp [decodeAux, f17, f15, f14, f12, f11, f9, f4, f0, Nat.div_add_mod']
  | tap mm x r b =>
    exact decode_bodyAux (by decide) (by decide) r.isLt fun w f17 f15 f14 f12 f11 f9 f4 f0 => by
      simp [decodeAux, f17, f15, f14, f12, f11, f9, f4, f0]
  | tsp mm x b =>
    exact decode_bodyAux (by decide) (by decide) (by decide)
      fun w f17 f15 f14 f12 f11 f9 f4 f0 => by
        simp [decodeAux, f17, f15, f14, f12, f11, f9, f4, f0]
  | rts c mm x b =>
    have hc := c.code_lt
    have upper : c.code / 4 = 0 := by omega
    have lower : c.code % 4 = c.code := Nat.mod_eq_of_lt hc
    exact decode_bodyAux (by decide) (by omega) (by decide)
      fun w f17 f15 f14 f12 f11 f9 f4 f0 => by
        simp [decodeAux, f17, f15, f14, f12, f11, f9, f4, f0, upper, lower]

end Sys2Proof
end

section
/-! PROOFS. Encoding what was decoded (spec 30_encoding, R91 to R116): a word that decodes is well
formed as an instruction, and its bits 22 to 0 are that instruction's. -/

namespace Sys2Proof

/-! ## A word is made of its fields -/

/-- The bits below a field and the field are the bits below its end. -/
theorem mod_add_field (w : CWord) (lo n : Nat) :
    w.toNat % 2 ^ (lo + n) = w.toNat % 2 ^ lo + field w lo n * 2 ^ lo := by
  rw [Nat.pow_add, Nat.mod_mul, field, Nat.mul_comm (2 ^ lo) (_ % _)]

/-- Formats RA and SD (R97, R99). -/
theorem bodyReg_fields {w : CWord} (h22 : field w 22 1 = 0) (h21 : field w 21 1 = 0)
    (h16 : field w 16 1 = 0) :
    bodyReg (field w 18 3) (field w 17 1) (field w 14 2) (MemOp.ofCode (field w 12 2))
      (Dest.ofCode (field w 8 4)) (ASrc.ofCode (field w 4 4)) (BSrc.ofCode (field w 0 4)) =
        w.toNat % 2 ^ 23 := by
  rw [bodyReg, MemOp.code_ofCode (field_lt ..), Dest.code_ofCode (field_lt ..),
    ASrc.code_ofCode (field_lt ..), BSrc.code_ofCode (field_lt ..)]
  have := mod_add_field w 0 4
  have := mod_add_field w 4 4
  have := mod_add_field w 8 4
  have := mod_add_field w 12 2
  have := mod_add_field w 14 2
  have := mod_add_field w 16 1
  have := mod_add_field w 17 1
  have := mod_add_field w 18 3
  have := mod_add_field w 21 1
  have := mod_add_field w 22 1
  omega

/-- Format IM (R109). -/
theorem bodyImm_fields {w : CWord} (h22 : field w 22 1 = 0) (h21 : field w 21 1 = 1) :
    bodyImm (field w 18 3) (MemOp.ofCode (field w 12 2)) (Dest.ofCode (field w 8 4))
      (BitVec.ofNat 8 (field w 14 4 * 16 + field w 4 4)) (BSrc.ofCode (field w 0 4)) =
        w.toNat % 2 ^ 23 := by
  have h14 := field_lt w 14 4
  have h4 := field_lt w 4 4
  have imm : (BitVec.ofNat 8 (field w 14 4 * 16 + field w 4 4)).toNat =
      field w 14 4 * 16 + field w 4 4 := by
    rw [BitVec.toNat_ofNat]; omega
  rw [bodyImm, imm, MemOp.code_ofCode (field_lt ..), Dest.code_ofCode (field_lt ..),
    BSrc.code_ofCode (field_lt ..)]
  have := mod_add_field w 0 4
  have := mod_add_field w 4 4
  have := mod_add_field w 8 4
  have := mod_add_field w 12 2
  have := mod_add_field w 14 4
  have := mod_add_field w 18 3
  have := mod_add_field w 21 1
  have := mod_add_field w 22 1
  omega

/-- Formats MB, VB and RC (R94 to R96). -/
theorem bodyBranch_fields {w : CWord} (h22 : field w 22 1 = 1) :
    bodyBranch (field w 18 4) (BitVec.ofNat 10 (field w 8 10)) (field w 4 4)
      (BSrc.ofCode (field w 0 4)) = w.toNat % 2 ^ 23 := by
  have x : (BitVec.ofNat 10 (field w 8 10)).toNat = field w 8 10 := by
    rw [BitVec.toNat_ofNat, Nat.mod_eq_of_lt (field_lt w 8 10)]
  rw [bodyBranch, x, BSrc.code_ofCode (field_lt ..)]
  have := mod_add_field w 0 4
  have := mod_add_field w 4 4
  have := mod_add_field w 8 10
  have := mod_add_field w 18 4
  have := mod_add_field w 22 1
  omega

/-- Format BR (R93). -/
theorem bodyJump_fields {w : CWord} (h22 : field w 22 1 = 1) (h0 : field w 0 2 = 0) :
    bodyJump (field w 18 4) (BitVec.ofNat 16 (field w 2 6 * 1024 + field w 8 10)) =
      w.toNat % 2 ^ 23 := by
  have h2 := field_lt w 2 6
  have h8 := field_lt w 8 10
  have t : (BitVec.ofNat 16 (field w 2 6 * 1024 + field w 8 10)).toNat =
      field w 2 6 * 1024 + field w 8 10 := by
    rw [BitVec.toNat_ofNat]; omega
  rw [bodyJump, t]
  have := mod_add_field w 0 2
  have := mod_add_field w 2 6
  have := mod_add_field w 8 10
  have := mod_add_field w 18 4
  have := mod_add_field w 22 1
  omega

/-- A bit as the decoder reads it, written back. -/
theorem toNat_field_beq_one (w : CWord) (i : Nat) : (field w i 1 == 1).toNat = field w i 1 := by
  rw [field_one, toNat_beq_one]

/-- Format MI (R100). -/
theorem bodyAux_fields {w : CWord} (h22 : field w 22 1 = 0) (h21 : field w 21 1 = 0)
    (h20 : field w 20 1 = 0) (h16 : field w 16 1 = 1) (h15 : field w 15 1 = 1) :
    bodyAux (field w 17 3) (field w 14 1 * 4 + field w 9 2) (MemOp.ofCode (field w 12 2))
      (field w 11 1 == 1) (field w 4 5) (BSrc.ofCode (field w 0 4)) = w.toNat % 2 ^ 23 := by
  rw [bodyAux, MemOp.code_ofCode (field_lt ..), BSrc.code_ofCode (field_lt ..),
    toNat_field_beq_one]
  have := field_lt w 9 2
  have := mod_add_field w 0 4
  have := mod_add_field w 4 5
  have := mod_add_field w 9 2
  have := mod_add_field w 11 1
  have := mod_add_field w 12 2
  have := mod_add_field w 14 1
  have := mod_add_field w 15 1
  have := mod_add_field w 16 1
  have := mod_add_field w 17 3
  have := mod_add_field w 20 1
  have := mod_add_field w 21 1
  have := mod_add_field w 22 1
  omega

/-- Format LP (R108). -/
theorem bodyLpi_fields {w : CWord} (h22 : field w 22 1 = 0) (h21 : field w 21 1 = 0)
    (h20 : field w 20 1 = 1) (h19 : field w 19 1 = 1) (h16 : field w 16 1 = 1) :
    bodyLpi (MemOp.ofCode (field w 12 2))
      (BitVec.ofNat 16 (field w 17 2 * 2 ^ 14 + field w 14 2 * 2 ^ 12 + field w 0 12)) =
        w.toNat % 2 ^ 23 := by
  have h17 := field_lt w 17 2
  have h14 := field_lt w 14 2
  have h0 := field_lt w 0 12
  have t : (BitVec.ofNat 16 (field w 17 2 * 2 ^ 14 + field w 14 2 * 2 ^ 12 + field w 0 12)).toNat =
      field w 17 2 * 2 ^ 14 + field w 14 2 * 2 ^ 12 + field w 0 12 := by
    rw [BitVec.toNat_ofNat]; omega
  have high : (field w 17 2 * 2 ^ 14 + field w 14 2 * 2 ^ 12 + field w 0 12) / 2 ^ 14 =
      field w 17 2 := by omega
  have middle : (field w 17 2 * 2 ^ 14 + field w 14 2 * 2 ^ 12 + field w 0 12) / 2 ^ 12 % 4 =
      field w 14 2 := by omega
  have low : (field w 17 2 * 2 ^ 14 + field w 14 2 * 2 ^ 12 + field w 0 12) % 2 ^ 12 =
      field w 0 12 := by omega
  rw [bodyLpi, t, high, middle, low, MemOp.code_ofCode (field_lt ..)]
  have := mod_add_field w 0 12
  have := mod_add_field w 12 2
  have := mod_add_field w 14 2
  have := mod_add_field w 16 1
  have := mod_add_field w 17 2
  have := mod_add_field w 19 1
  have := mod_add_field w 20 1
  have := mod_add_field w 21 1
  have := mod_add_field w 22 1
  omega

/-- Format IO (R107). -/
theorem bodyCio_fields {w : CWord} (h22 : field w 22 1 = 0) (h21 : field w 21 1 = 0)
    (h20 : field w 20 1 = 1) (h19 : field w 19 1 = 0) (h17 : field w 17 2 = 3)
    (h16 : field w 16 1 = 1) (h14 : field w 14 2 = 2) (h4 : field w 4 3 = 0)
    (h2 : field w 2 2 = 0 ∨ field w 2 2 = 3) (h0 : field w 0 2 = 0) :
    bodyCio (MemOp.ofCode (field w 12 2)) (field w 11 1 == 1) (field w 10 1 == 1)
      (field w 9 1 == 1) (field w 8 1 == 1) (field w 7 1 == 1) (field w 2 2 == 3) =
        w.toNat % 2 ^ 23 := by
  have z : (field w 2 2 == 3).toNat * 3 = field w 2 2 := by
    rcases h2 with h | h <;> rw [h] <;> rfl
  rw [bodyCio, MemOp.code_ofCode (field_lt ..)]
  simp only [toNat_field_beq_one]
  have := mod_add_field w 0 2
  have := mod_add_field w 2 2
  have := mod_add_field w 4 3
  have := mod_add_field w 7 1
  have := mod_add_field w 8 1
  have := mod_add_field w 9 1
  have := mod_add_field w 10 1
  have := mod_add_field w 11 1
  have := mod_add_field w 12 2
  have := mod_add_field w 14 2
  have := mod_add_field w 16 1
  have := mod_add_field w 17 2
  have := mod_add_field w 19 1
  have := mod_add_field w 20 1
  have := mod_add_field w 21 1
  have := mod_add_field w 22 1
  omega

/-! ## The rows of the decoder -/

/-- Some word stands for the instruction, and bits 22 to 0 of it are those of `w`. -/
def spelledBy (i : Instr) (w : CWord) : Prop :=
  i.wellFormed = true ∧ encodeBody i = w.toNat % 2 ^ 23

theorem decodeRegX_body {aaa cc : Nat} (haaa : aaa < 8) (hcc : cc < 4) (mm : MemOp) (d : Dest)
    (a : ASrc) (b : BSrc) : (decodeRegX aaa cc mm d a b).wellFormed = true ∧
      encodeBody (decodeRegX aaa cc mm d a b) = bodyReg aaa 1 cc mm d a b := by
  interval_cases aaa <;> interval_cases cc <;> exact ⟨rfl, rfl⟩

theorem decodeReg8_body {aaa cc : Nat} (haaa : aaa < 8) (hcc : cc < 4) (mm : MemOp) {d : Dest}
    (hd : d.isLegal = true) (a : ASrc) (b : BSrc) :
    (decodeReg8 aaa cc mm d a b).wellFormed = true ∧
      encodeBody (decodeReg8 aaa cc mm d a b) = bodyReg aaa 0 cc mm d a b := by
  interval_cases aaa <;> interval_cases cc <;> exact ⟨hd, rfl⟩

theorem decodeRegAlu_spelledBy {w : CWord} {i : Instr} (h22 : field w 22 1 = 0)
    (h21 : field w 21 1 = 0) (h16 : field w 16 1 = 0) (h : decodeRegAlu w = .ok i) :
    spelledBy i w := by
  have haaa := field_lt w 18 3
  have hcc := field_lt w 14 2
  simp only [decodeRegAlu] at h
  rw [spelledBy, ← bodyReg_fields h22 h21 h16]
  split at h
  case isTrue h17 =>
    cases h
    rw [h17]
    exact decodeRegX_body haaa hcc ..
  case isFalse h17 =>
    have h17 : field w 17 1 = 0 := by have := field_lt w 17 1; omega
    split at h
    case isTrue hd =>
      cases h
      rw [h17]
      exact decodeReg8_body haaa hcc _ hd ..
    case isFalse => cases h

/-- The constant of IMUL, put together from its two parts, is the constant of the word (R109). -/
theorem imul_constant {w : CWord} (h16 : field w 16 2 = 0) (h14 : field w 14 1 = 0) :
    (field w 15 1 == 1).toNat * 32 + (BitVec.ofNat 4 (field w 4 4)).toNat =
      field w 14 4 * 16 + field w 4 4 := by
  rw [toNat_field_beq_one, BitVec.toNat_ofNat, Nat.mod_eq_of_lt (field_lt w 4 4)]
  have hi : field w 16 2 = field w 14 4 / 2 ^ 2 % 2 ^ 2 :=
    field_in_field w 14 (k := 2) (n := 4) (by decide)
  have mid : field w 15 1 = field w 14 4 / 2 ^ 1 % 2 ^ 1 :=
    field_in_field w 14 (k := 1) (n := 4) (by decide)
  have lo : field w 14 1 = field w 14 4 / 2 ^ 0 % 2 ^ 1 :=
    field_in_field w 14 (k := 0) (n := 4) (by decide)
  have := field_lt w 14 4
  omega

theorem decodeImm_spelledBy {w : CWord} {i : Instr} (h22 : field w 22 1 = 0)
    (h21 : field w 21 1 = 1) (h : decodeImm w = .ok i) : spelledBy i w := by
  have haaa := field_lt w 18 3
  simp only [decodeImm, decodeImmLegal] at h
  rw [spelledBy, ← bodyImm_fields h22 h21]
  split at h
  case isFalse => cases h
  case isTrue hd =>
    generalize field w 18 3 = f at haaa h ⊢
    match f, haaa, h with
    | 0, _, h =>
      simp only at h
      split at h
      case isTrue hb =>
        cases h
        simp [Instr.wellFormed, encodeBody, hd, hb]
      case isFalse hb =>
        cases h
        rw [BSrc.eq_zero_of_not_isRegister (Bool.eq_false_of_not_eq_true hb)]
        simp [Instr.wellFormed, encodeBody, hd]
    | 7, _, h =>
      simp only at h
      split at h
      case isFalse => cases h
      case isTrue reserved =>
        cases h
        rw [← imul_constant reserved.1 reserved.2]
        simp [Instr.wellFormed, encodeBody, hd]
    | 1, _, h | 2, _, h | 3, _, h | 4, _, h | 5, _, h | 6, _, h =>
      cases h
      simp [Instr.wellFormed, encodeBody, hd]

theorem decodeJump_spelledBy {w : CWord} {i : Addr → Instr} {j : Instr} {op : Nat}
    (h22 : field w 22 1 = 1) (hop : field w 18 4 = op)
    (hi : ∀ t, (i t).wellFormed = true ∧ encodeBody (i t) = bodyJump op t)
    (h : decodeJump w i = .ok j) : spelledBy j w := by
  rw [decodeJump] at h
  split at h
  case isTrue zeros =>
    cases h
    rw [spelledBy, ← bodyJump_fields h22 zeros, hop]
    exact hi _
  case isFalse => cases h

theorem decodeBranch_spelledBy {w : CWord} {i : Instr} (h22 : field w 22 1 = 1)
    (h : decodeBranch w = .ok i) : spelledBy i w := by
  have hop := field_lt w 18 4
  have ha : (ASrc.ofCode (field w 4 4)).code = field w 4 4 := ASrc.code_ofCode (field_lt ..)
  have hc : (BitVec.ofNat 4 (field w 4 4)).toNat = field w 4 4 := by
    rw [BitVec.toNat_ofNat, Nat.mod_eq_of_lt (field_lt w 4 4)]
  have jump {j : Addr → Instr} {op : Nat} (hf : field w 18 4 = op)
      (hj : ∀ t, (j t).wellFormed = true ∧ encodeBody (j t) = bodyJump op t)
      (h : decodeJump w j = .ok i) := decodeJump_spelledBy h22 hf hj h
  have body := bodyBranch_fields h22
  simp only [decodeBranch] at h
  rw [spelledBy, ← body]
  generalize hf : field w 18 4 = op at hop h ⊢
  match op, hop, hf, h with
  | 4, _, _, h | 6, _, _, h =>
    simp only at h
    split at h
    case isTrue hb =>
      cases h
      simp [Instr.wellFormed, encodeBody, hb, ha]
    case isFalse hb =>
      cases h
      rw [BSrc.eq_zero_of_not_isRegister (Bool.eq_false_of_not_eq_true hb)]
      simp [Instr.wellFormed, encodeBody, ha]
  | 5, _, hf, h | 7, _, hf, h =>
    simp only at h
    rw [← hf, body]
    exact jump hf (fun _ => ⟨rfl, rfl⟩) h
  | 0, _, _, h | 1, _, _, h | 2, _, _, h | 3, _, _, h | 8, _, _, h | 9, _, _, h | 10, _, _, h
  | 11, _, _, h | 12, _, _, h | 13, _, _, h | 14, _, _, h | 15, _, _, h =>
    cases h
    simp [Instr.wellFormed, encodeBody, ha, hc]
  | n + 16, hop, _, _ => omega

theorem decodeAux_spelledBy {w : CWord} {i : Instr} (h22 : field w 22 1 = 0)
    (h21 : field w 21 1 = 0) (h20 : field w 20 1 = 0) (h16 : field w 16 1 = 1)
    (h : decodeAux w = .ok i) : spelledBy i w := by
  have hfff := field_lt w 17 3
  have h14 := field_lt w 14 1
  have h9 := field_lt w 9 2
  have hp : (PCtl.ofCode (field w 14 1 * 4 + field w 9 2)).code = field w 14 1 * 4 + field w 9 2 :=
    PCtl.code_ofCode (by omega)
  have hr : (Fin.ofNat 32 (field w 4 5)).val = field w 4 5 := Nat.mod_eq_of_lt (field_lt w 4 5)
  simp only [decodeAux] at h
  split at h
  case isTrue => cases h
  case isFalse h15 =>
    have h15 : field w 15 1 = 1 := by have := field_lt w 15 1; omega
    have body := bodyAux_fields h22 h21 h20 h16 h15
    rw [spelledBy, ← body]
    generalize field w 17 3 = f at hfff h ⊢
    match f, hfff, h with
    | 0, _, h | 1, _, h =>
      cases h
      exact ⟨rfl, by simp only [encodeBody, hp, hr]⟩
    | 2, _, h =>
      simp only at h
      split at h
      case isFalse => cases h
      case isTrue h4 =>
        cases h
        exact ⟨rfl, by simp only [encodeBody, hp, h4]⟩
    | 3, _, h =>
      simp only at h
      split at h
      case isFalse => cases h
      case isTrue zeros =>
        cases h
        obtain ⟨z14, z4⟩ := zeros
        refine ⟨rfl, ?_⟩
        simp only [encodeBody, z14, z4, CmCtl.code_ofCode h9, Nat.zero_mul, Nat.zero_add]
    | 5, _, h =>
      simp only at h
      split at h
      case isFalse => cases h
      case isTrue zero =>
        cases h
        exact ⟨rfl, by simp only [encodeBody, zero, hr]⟩
    | 6, _, h =>
      simp only at h
      split at h
      case isFalse => cases h
      case isTrue zeros =>
        cases h
        obtain ⟨zp, z4⟩ := zeros
        exact ⟨rfl, by simp only [encodeBody, zp, z4]⟩
    | 4, _, h | 7, _, h => cases h

theorem decodeCio_spelledBy {w : CWord} {i : Instr} (h22 : field w 22 1 = 0)
    (h21 : field w 21 1 = 0) (h20 : field w 20 1 = 1) (h19 : field w 19 1 = 0)
    (h17 : field w 17 2 = 3) (h16 : field w 16 1 = 1) (h : decodeCio w = .ok i) :
    spelledBy i w := by
  rw [decodeCio] at h
  split at h
  case isTrue => cases h
  case isFalse fixed =>
    split at h
    case isTrue => cases h
    case isFalse reserved =>
      cases h
      have := field_lt w 2 2
      rw [spelledBy, ← bodyCio_fields h22 h21 h20 h19 h17 h16 (by omega) (by omega) (by omega)
        (by omega)]
      exact ⟨rfl, rfl⟩

theorem decodeIo_spelledBy {w : CWord} {i : Instr} (h22 : field w 22 1 = 0)
    (h21 : field w 21 1 = 0) (h20 : field w 20 1 = 1) (h16 : field w 16 1 = 1)
    (h : decodeIo w = .ok i) : spelledBy i w := by
  rw [decodeIo] at h
  split at h
  case isTrue h19 =>
    cases h
    rw [spelledBy, ← bodyLpi_fields h22 h21 h20 h19 h16]
    exact ⟨rfl, rfl⟩
  case isFalse h19 =>
    have h19 : field w 19 1 = 0 := by have := field_lt w 19 1; omega
    split at h
    case isTrue h17 => exact decodeCio_spelledBy h22 h21 h20 h19 h17 h16 h
    case isFalse => cases h

/-- A word that decodes is spelled by its instruction: the family tree of R92. -/
theorem decode_spelledBy {w : CWord} {i : Instr} (h : decode w = .ok i) : spelledBy i w := by
  have bit {k : Nat} (hk : ¬field w k 1 = 1) : field w k 1 = 0 := by
    have := field_lt w k 1
    omega
  rw [decode] at h
  split at h
  case isTrue h22 => exact decodeBranch_spelledBy h22 h
  case isFalse h22 =>
  split at h
  case isTrue h21 => exact decodeImm_spelledBy (bit h22) h21 h
  case isFalse h21 =>
  split at h
  case isTrue h16 => exact decodeRegAlu_spelledBy (bit h22) (bit h21) h16 h
  case isFalse h16 =>
  have h16 : field w 16 1 = 1 := by have := field_lt w 16 1; omega
  split at h
  case isTrue h20 => exact decodeAux_spelledBy (bit h22) (bit h21) h20 h16 h
  case isFalse h20 =>
  have h20 : field w 20 1 = 1 := by have := field_lt w 20 1; omega
  exact decodeIo_spelledBy (bit h22) (bit h21) h20 h16 h

/-- Settles O3: bits 22 to 0 of the word are the instruction's, so with odd parity the word is the
assembled one. -/
theorem encodeDecode : Obligations.EncodeDecode := by
  intro w i h
  obtain ⟨wf, body⟩ := decode_spelledBy h
  refine ⟨wf, fun odd => withParity_of_odd odd ?_⟩
  rw [body, Nat.mod_mod]

end Sys2Proof
end

section
/-! PROOFS. The form of every instruction's meaning: the 53 arms of the dispatch have 18 forms, and
an instruction of one form has the fields that the words of the statements read off it. -/

namespace Sys2Proof.Machine

/-! ## The forms -/

/-- What the statements' words say of a conditional branch or a jump (R66, R98, R204). -/
structure BranchForm (i : Instr) : Prop where
  isBranch : isBranch i = true
  memOp : memOpOf i = .none
  dest : destOf i = none
  destX : destXOf i = none
  carryCtl : carryCtlOf i = .asIs
  carry : producesCarry i = false

/-- What they say of an instruction whose Data Memory operation is `mm`, at the pointer before it,
and which goes on at the following word unless it is RTS. -/
structure PointerForm (i : Instr) (mm : MemOp) : Prop where
  isBranch : isBranch i = false
  memOp : memOpOf i = mm
  latch : ∀ s, latchOf i s = s.phpl
  stored : ∀ t, storedBy i t = t.dum

/-- What they say of an 8-bit ALU instruction with function `f` (R98, R103, R180, R204,
R230). -/
structure Alu8Form (i : Instr) (f : AluFn) (cc : CarryCtl) (mm : MemOp) (d : Dest) (move : Addr) :
    Prop extends PointerForm i mm where
  next : ∀ s, nextOf i s = s.pc + 1
  dest : destOf i = some d
  destX : destXOf i = none
  carryCtl : carryCtlOf i = cc
  move : pointerMove i = move
  carry : givesCarry f (producesCarry i)
  legal : i.wellFormed = true → d.isLegal = true

/-- What they say of a 16-bit ALU instruction with function `f` (R98, R183, R204). -/
structure Alu16Form (i : Instr) (f : AluFn) (cc : CarryCtl) (mm : MemOp) (d : Dest) :
    Prop extends PointerForm i mm where
  next : ∀ s, nextOf i s = s.pc + 1
  dest : destOf i = none
  destX : destXOf i = some d
  carryCtl : carryCtlOf i = cc
  carry : givesCarry f (producesCarry i)

/-- `g` is the meaning of `i`, by the skeleton of its family. -/
inductive MeaningOf : Instr → (State → Result) → Prop
  | jmp (t : Addr) : MeaningOf (.jmp t) (execJmp t)
  | jsr (t : Addr) : MeaningOf (.jsr t) (execJsr t)
  | test {i : Instr} (f : Byte → Bool) (x : BitVec 10) (b : BSrc) (form : BranchForm i) :
      MeaningOf i (testBranch f x b)
  | compare {i : Instr} (f : Byte → Byte → Bool) (x : BitVec 10) (a : ASrc) (b : BSrc)
      (form : BranchForm i) : MeaningOf i (compareBranch f x a b)
  | compareX {i : Instr} (f : Addr → Addr → Bool) (x : BitVec 10) (a : ASrc) (b : BSrc)
      (form : BranchForm i) : MeaningOf i (compareBranchX f x a b)
  | alu8 {i : Instr} {f : AluFn} {cc : CarryCtl} {mm : MemOp} {d : Dest} (a : ASrc) (b : BSrc)
      (form : Alu8Form i f cc mm d (moveOf a)) :
      MeaningOf i (regAlu f (producesCarry i) cc mm d a b)
  | imm {i : Instr} {f : AluFn} {mm : MemOp} {d : Dest} (imm : Byte) (b : BSrc)
      (form : Alu8Form i f .asIs mm d 0) : MeaningOf i (immAlu f (producesCarry i) mm d imm b)
  | alu16 {i : Instr} {f : AluFn} {cc : CarryCtl} {mm : MemOp} {d : Dest} (a : ASrc) (b : BSrc)
      (form : Alu16Form i f cc mm d) : MeaningOf i (regAluX f cc mm d a b)
  | cio (mm : MemOp) (clk abs obs cbs srs tim : Bool) :
      MeaningOf (.cio mm clk abs obs cbs srs tim) (execCio mm clk abs obs cbs srs tim)
  | lpi (mm : MemOp) (addr : Addr) : MeaningOf (.lpi mm addr) (execLpi mm addr)
  | tpa (p : PCtl) (mm : MemOp) (x : Bool) (r : ArNum) (b : BSrc) :
      MeaningOf (.tpa p mm x r b) (execTpa p mm x r b)
  | xpa (p : PCtl) (mm : MemOp) (x : Bool) (r : ArNum) (b : BSrc) :
      MeaningOf (.xpa p mm x r b) (execXpa p mm x r b)
  | tap (mm : MemOp) (x : Bool) (r : ArNum) (b : BSrc) :
      MeaningOf (.tap mm x r b) (execTap mm x r b)
  | tps (p : PCtl) (mm : MemOp) (x : Bool) (b : BSrc) :
      MeaningOf (.tps p mm x b) (execTps p mm x b)
  | tsp (mm : MemOp) (x : Bool) (b : BSrc) : MeaningOf (.tsp mm x b) (execTsp mm x b)
  | rtsPlain {c : CmCtl} (hc : c = .noOp ∨ c = .noOpAlt) (mm : MemOp) (x : Bool) (b : BSrc) :
      MeaningOf (.rts c mm x b) (rtsPlain mm b)
  | rtsWrite (mm : MemOp) (x : Bool) (b : BSrc) : MeaningOf (.rts .write mm x b) (rtsWrite mm b)
  | rtsRead (mm : MemOp) (x : Bool) (b : BSrc) : MeaningOf (.rts .read mm x b) (rtsRead mm b)

/-- Every arm of the dispatch is one of the forms. -/
theorem exec_meaning (i : Instr) : MeaningOf i (exec i) := by
  cases i with
  | jmp t => exact .jmp t
  | jsr t => exact .jsr t
  | btl x c b => exact .test (fun v => maskedTrue (lo v) c) x b ⟨rfl, rfl, rfl, rfl, rfl, rfl⟩
  | bth x c b => exact .test (fun v => maskedTrue (hi v) c) x b ⟨rfl, rfl, rfl, rfl, rfl, rfl⟩
  | bfl x c b => exact .test (fun v => maskedFalse (lo v) c) x b ⟨rfl, rfl, rfl, rfl, rfl, rfl⟩
  | bfh x c b => exact .test (fun v => maskedFalse (hi v) c) x b ⟨rfl, rfl, rfl, rfl, rfl, rfl⟩
  | bel x c b => exact .test (fun v => lo v == c) x b ⟨rfl, rfl, rfl, rfl, rfl, rfl⟩
  | beh x c b => exact .test (fun v => hi v == c) x b ⟨rfl, rfl, rfl, rfl, rfl, rfl⟩
  | bnl x c b => exact .test (fun v => lo v != c) x b ⟨rfl, rfl, rfl, rfl, rfl, rfl⟩
  | bnh x c b => exact .test (fun v => hi v != c) x b ⟨rfl, rfl, rfl, rfl, rfl, rfl⟩
  | blr x a b =>
    exact .compare (fun u v => decide (u.toNat < v.toNat)) x a b
      ⟨rfl, rfl, rfl, rfl, rfl, rfl⟩
  | bler x a b =>
    exact .compare (fun u v => decide (u.toNat ≤ v.toNat)) x a b
      ⟨rfl, rfl, rfl, rfl, rfl, rfl⟩
  | ber x a b => exact .compare (fun u v => u == v) x a b ⟨rfl, rfl, rfl, rfl, rfl, rfl⟩
  | bnr x a b => exact .compare (fun u v => u != v) x a b ⟨rfl, rfl, rfl, rfl, rfl, rfl⟩
  | bez x a => exact .compare (fun u v => u == v) x a .zero ⟨rfl, rfl, rfl, rfl, rfl, rfl⟩
  | bnz x a => exact .compare (fun u v => u != v) x a .zero ⟨rfl, rfl, rfl, rfl, rfl, rfl⟩
  | blrx x a b =>
    exact .compareX (fun u v => decide (u.toNat < v.toNat)) x a b
      ⟨rfl, rfl, rfl, rfl, rfl, rfl⟩
  | blex x a b =>
    exact .compareX (fun u v => decide (u.toNat ≤ v.toNat)) x a b
      ⟨rfl, rfl, rfl, rfl, rfl, rfl⟩
  | or cc mm d a b =>
    exact .alu8 a b (f := orFn) ⟨⟨rfl, rfl, fun _ => rfl, fun _ => rfl⟩, fun _ => rfl, rfl,
      rfl, rfl, rfl, orFn_givesCarry, fun h => (Bool.and_eq_true_iff.mp h).2⟩
  | xor cc mm d a b =>
    exact .alu8 a b (f := xorFn) ⟨⟨rfl, rfl, fun _ => rfl, fun _ => rfl⟩, fun _ => rfl, rfl,
      rfl, rfl, rfl, xorFn_givesCarry, fun h => (Bool.and_eq_true_iff.mp h).2⟩
  | and cc mm d a b =>
    exact .alu8 a b (f := andFn) ⟨⟨rfl, rfl, fun _ => rfl, fun _ => rfl⟩, fun _ => rfl, rfl,
      rfl, rfl, rfl, andFn_givesCarry, fun h => (Bool.and_eq_true_iff.mp h).2⟩
  | sbc cc mm d a b =>
    exact .alu8 a b (f := sbcFn) ⟨⟨rfl, rfl, fun _ => rfl, fun _ => rfl⟩, fun _ => rfl, rfl,
      rfl, rfl, rfl, sbcFn_givesCarry, fun h => (Bool.and_eq_true_iff.mp h).2⟩
  | dac cc mm d a b =>
    exact .alu8 a b (f := dacFn) ⟨⟨rfl, rfl, fun _ => rfl, fun _ => rfl⟩, fun _ => rfl, rfl,
      rfl, rfl, rfl, dacFn_givesCarry, id⟩
  | dsc cc mm d a b =>
    exact .alu8 a b (f := dscFn) ⟨⟨rfl, rfl, fun _ => rfl, fun _ => rfl⟩, fun _ => rfl, rfl,
      rfl, rfl, rfl, dscFn_givesCarry, id⟩
  | adc cc mm d a b =>
    exact .alu8 a b (f := adcFn) ⟨⟨rfl, rfl, fun _ => rfl, fun _ => rfl⟩, fun _ => rfl, rfl,
      rfl, rfl, rfl, adcFn_givesCarry, id⟩
  | mul n mm d a b =>
    exact .alu8 a b (f := mulFn n) ⟨⟨rfl, rfl, fun _ => rfl, fun _ => rfl⟩, fun _ => rfl, rfl,
      rfl, rfl, rfl, mulFn_givesCarry n, id⟩
  | sdc n mm d a b =>
    exact .alu8 a b (f := sdcFn n) ⟨⟨rfl, rfl, fun _ => rfl, fun _ => rfl⟩, fun _ => rfl, rfl,
      rfl, rfl, rfl, sdcFn_givesCarry n, id⟩
  | orx cc mm d a b =>
    exact .alu16 a b (f := orFn) ⟨⟨rfl, rfl, fun _ => rfl, fun _ => rfl⟩, fun _ => rfl, rfl,
      rfl, rfl, orFn_givesCarry⟩
  | xorx cc mm d a b =>
    exact .alu16 a b (f := xorFn) ⟨⟨rfl, rfl, fun _ => rfl, fun _ => rfl⟩, fun _ => rfl, rfl,
      rfl, rfl, xorFn_givesCarry⟩
  | andx cc mm d a b =>
    exact .alu16 a b (f := andFn) ⟨⟨rfl, rfl, fun _ => rfl, fun _ => rfl⟩, fun _ => rfl, rfl,
      rfl, rfl, andFn_givesCarry⟩
  | sbcx cc mm d a b =>
    exact .alu16 a b (f := sbcFn) ⟨⟨rfl, rfl, fun _ => rfl, fun _ => rfl⟩, fun _ => rfl, rfl,
      rfl, rfl, sbcFn_givesCarry⟩
  | dacx cc mm d a b =>
    exact .alu16 a b (f := dacFn) ⟨⟨rfl, rfl, fun _ => rfl, fun _ => rfl⟩, fun _ => rfl, rfl,
      rfl, rfl, dacFn_givesCarry⟩
  | dscx cc mm d a b =>
    exact .alu16 a b (f := dscFn) ⟨⟨rfl, rfl, fun _ => rfl, fun _ => rfl⟩, fun _ => rfl, rfl,
      rfl, rfl, dscFn_givesCarry⟩
  | adcx cc mm d a b =>
    exact .alu16 a b (f := adcFn) ⟨⟨rfl, rfl, fun _ => rfl, fun _ => rfl⟩, fun _ => rfl, rfl,
      rfl, rfl, adcFn_givesCarry⟩
  | mulx n mm d a b =>
    exact .alu16 a b (f := mulFn n) ⟨⟨rfl, rfl, fun _ => rfl, fun _ => rfl⟩, fun _ => rfl,
      rfl, rfl, rfl, mulFn_givesCarry n⟩
  | sdcx n mm d a b =>
    exact .alu16 a b (f := sdcFn n) ⟨⟨rfl, rfl, fun _ => rfl, fun _ => rfl⟩, fun _ => rfl,
      rfl, rfl, rfl, sdcFn_givesCarry n⟩
  | ior mm d imm b =>
    exact .imm imm b (f := orFn) ⟨⟨rfl, rfl, fun _ => rfl, fun _ => rfl⟩, fun _ => rfl,
      rfl, rfl, rfl, rfl, orFn_givesCarry, fun h => (Bool.and_eq_true_iff.mp h).1⟩
  | set mm d imm =>
    exact .imm imm .zero (f := orFn) ⟨⟨rfl, rfl, fun _ => rfl, fun _ => rfl⟩, fun _ => rfl,
      rfl, rfl, rfl, rfl, orFn_givesCarry, id⟩
  | ixor mm d imm b =>
    exact .imm imm b (f := xorFn) ⟨⟨rfl, rfl, fun _ => rfl, fun _ => rfl⟩, fun _ => rfl,
      rfl, rfl, rfl, rfl, xorFn_givesCarry, id⟩
  | iand mm d imm b =>
    exact .imm imm b (f := andFn) ⟨⟨rfl, rfl, fun _ => rfl, fun _ => rfl⟩, fun _ => rfl,
      rfl, rfl, rfl, rfl, andFn_givesCarry, id⟩
  | iadd mm d imm b =>
    exact .imm imm b (f := addFn) ⟨⟨rfl, rfl, fun _ => rfl, fun _ => rfl⟩, fun _ => rfl,
      rfl, rfl, rfl, rfl, addFn_givesCarry, id⟩
  | idac mm d imm b =>
    exact .imm imm b (f := dacFn) ⟨⟨rfl, rfl, fun _ => rfl, fun _ => rfl⟩, fun _ => rfl,
      rfl, rfl, rfl, rfl, dacFn_givesCarry, id⟩
  | idsc mm d imm b =>
    exact .imm imm b (f := dscFn) ⟨⟨rfl, rfl, fun _ => rfl, fun _ => rfl⟩, fun _ => rfl,
      rfl, rfl, rfl, rfl, dscFn_givesCarry, id⟩
  | iadc mm d imm b =>
    exact .imm imm b (f := adcFn) ⟨⟨rfl, rfl, fun _ => rfl, fun _ => rfl⟩, fun _ => rfl,
      rfl, rfl, rfl, rfl, adcFn_givesCarry, id⟩
  | imul high mm d n b =>
    exact .imm 0 b (f := imulFn high n) ⟨⟨rfl, rfl, fun _ => rfl, fun _ => rfl⟩, fun _ => rfl,
      rfl, rfl, rfl, rfl, imulFn_givesCarry high n, id⟩
  | cio mm clk abs obs cbs srs tim => exact .cio mm clk abs obs cbs srs tim
  | lpi mm addr => exact .lpi mm addr
  | tpa p mm x r b => exact .tpa p mm x r b
  | xpa p mm x r b => exact .xpa p mm x r b
  | tap mm x r b => exact .tap mm x r b
  | tps p mm x b => exact .tps p mm x b
  | tsp mm x b => exact .tsp mm x b
  | rts c mm x b =>
    cases c with
    | noOp => exact .rtsPlain (.inl rfl) mm x b
    | noOpAlt => exact .rtsPlain (.inr rfl) mm x b
    | write => exact .rtsWrite mm x b
    | read => exact .rtsRead mm x b

/-! ## The runs -/

/-- What the statements' words say of an instruction of the stack and auxiliary group that goes on
at `next` from `s`. -/
structure AuxForm (i : Instr) (mm : MemOp) (s : State) (next : Addr) : Prop
    extends PointerForm i mm where
  next : nextOf i s = next
  dest : destOf i = none
  destX : destXOf i = none
  carryCtl : carryCtlOf i = .asIs
  carry : producesCarry i = false

/-- What an instruction of the stack and auxiliary group does of its own, from `s`: its operands,
the state its body leaves, and where it goes on (R273 to R281). -/
inductive AuxRun (s : State) : Instr → MemOp → BSrc → State → Addr → Prop
  | tpa (p : PCtl) (mm : MemOp) (x : Bool) (r : ArNum) (b : BSrc) :
      AuxRun s (.tpa p mm x r b) mm b (s.setAr r (s.adjusted p)) s.nextPc
  | xpa (p : PCtl) (mm : MemOp) (x : Bool) (r : ArNum) (b : BSrc) :
      AuxRun s (.xpa p mm x r b) mm b ((s.setAr r (s.adjusted p)).setPhpl (s.aux r)) s.nextPc
  | tap (mm : MemOp) (x : Bool) (r : ArNum) (b : BSrc) :
      AuxRun s (.tap mm x r b) mm b (s.setPhpl (s.aux r)) s.nextPc
  | tps (p : PCtl) (mm : MemOp) (x : Bool) (b : BSrc) (room : s.stack.length < 96) :
      AuxRun s (.tps p mm x b) mm b (s.setStack (s.adjusted p :: s.stack)) s.nextPc
  | tsp (mm : MemOp) (x : Bool) (b : BSrc) {v : Addr} {rest : List Addr}
      (items : s.stack = v :: rest) :
      AuxRun s (.tsp mm x b) mm b ((s.setStack rest).setPhpl v) s.nextPc
  | rtsPlain {c : CmCtl} (hc : c = .noOp ∨ c = .noOpAlt) (mm : MemOp) (x : Bool) (b : BSrc)
      {v : Addr} {rest : List Addr} (items : s.stack = v :: rest) :
      AuxRun s (.rts c mm x b) mm b (s.setStack rest) v
  | rtsWrite (mm : MemOp) (x : Bool) (b : BSrc) {a v : Addr} {rest : List Addr}
      (items : s.stack = a :: v :: rest) :
      AuxRun s (.rts .write mm x b) mm b ((s.setStack rest).cmWrite a s.controlWord) v
  | rtsRead (mm : MemOp) (x : Bool) (b : BSrc) {a v : Addr} {rest : List Addr}
      (items : s.stack = a :: v :: rest) :
      AuxRun s (.rts .read mm x b) mm b ((s.setStack rest).setControlWord (s.cmRead a)) v

theorem auxRun_form {s u : State} {i : Instr} {mm : MemOp} {b : BSrc} {next : Addr}
    (h : AuxRun s i mm b u next) : AuxForm i mm s next := by
  cases h with
  | tpa | xpa | tap | tps | tsp =>
    exact ⟨⟨rfl, rfl, fun _ => rfl, fun _ => rfl⟩, rfl, rfl, rfl, rfl, rfl⟩
  | rtsPlain hc mm x b items =>
    rcases hc with rfl | rfl <;>
      exact ⟨⟨rfl, rfl, fun _ => rfl, fun _ => rfl⟩, by simp [nextOf, items], rfl, rfl, rfl, rfl⟩
  | rtsWrite mm x b items | rtsRead mm x b items =>
    exact ⟨⟨rfl, rfl, fun _ => rfl, fun _ => rfl⟩, by simp [nextOf, items], rfl, rfl, rfl, rfl⟩

/-- A B source reads the same after a push. -/
@[simp] theorem readB_setStack (b : BSrc) (s : State) (v : List Addr) :
    readB b (s.setStack v) = readB b s := by
  cases b <;> rfl

/-- The group's instructions do what their run says, then what R270 does for all of them. -/
theorem exec_of_auxRun {s u : State} {i : Instr} {mm : MemOp} {b : BSrc} {next : Addr}
    (h : AuxRun s i mm b u next) : exec i s = .next (s.runAux mm b (fun _ => u) next) := by
  cases h with
  | tpa | xpa | tap => rfl
  | tps p mm x b room =>
    show execTps p mm x b s = _
    rw [execTps, pushThen_room room]
    simp only [State.runAux, readB_setStack]
    rfl
  | tsp mm x b items => exact popThen_cons _ items
  | rtsPlain hc mm x b items => rcases hc with rfl | rfl <;> exact popThen_cons _ items
  | rtsWrite mm x b items => exact popTwoThen_cons _ items
  | rtsRead mm x b items => exact popTwoThen_cons _ items

/-- How `i` gets from `s` to `t`: the instructions that answer a next state, family by family. -/
inductive RunOf (i : Instr) (s t : State) : Prop
  | branch (form : BranchForm i)
      (keeps : t = { s with pc := t.pc, ph := t.ph, pl := t.pl, stack := t.stack })
      (stack : (∃ a v, i = .jsr a ∧ s.stack.length < 96 ∧ t.stack = v :: s.stack) ∨
        t.stack = s.stack)
  | alu8 {f : AluFn} {cc : CarryCtl} {mm : MemOp} {d : Dest} {a : ASrc} {b : BSrc}
      (form : Alu8Form i f cc mm d (moveOf a))
      (answer : regAlu f (producesCarry i) cc mm d a b s = .next t)
  | imm {f : AluFn} {mm : MemOp} {d : Dest} {imm : Byte} {b : BSrc}
      (form : Alu8Form i f .asIs mm d 0)
      (answer : immAlu f (producesCarry i) mm d imm b s = .next t)
  | alu16 {f : AluFn} {cc : CarryCtl} {mm : MemOp} {d : Dest} {a : ASrc} {b : BSrc}
      (form : Alu16Form i f cc mm d) (answer : regAluX f cc mm d a b s = .next t)
  | cio {mm : MemOp} {clk abs obs cbs srs tim : Bool} (instr : i = .cio mm clk abs obs cbs srs tim)
      (noWrite : memWrites mm = false)
      (result : t = ((s.runCio clk abs obs cbs srs tim).dmOp mm s.sl s.phpl 0).finish mm s.sl
        s.phpl s.nextPc)
  | lpi {mm : MemOp} {addr : Addr} (instr : i = .lpi mm addr) (answer : execLpi mm addr s = .next t)
  | aux {mm : MemOp} {b : BSrc} {u : State} {next : Addr} (run : AuxRun s i mm b u next)
      (result : t = s.runAux mm b (fun _ => u) next)

/-- What an instruction of the group that answers a next state did. -/
theorem runOf_aux {i : Instr} {s t u : State} {mm : MemOp} {b : BSrc} {next : Addr}
    (run : AuxRun s i mm b u next) (h : exec i s = .next t) : RunOf i s t := by
  rw [exec_of_auxRun run] at h
  cases h
  exact .aux run rfl

/-- Every instruction that answers a next state ran as one of the families does. -/
theorem exec_runs {i : Instr} {s t : State} (h : exec i s = .next t) : RunOf i s t := by
  have answer := h
  have m := exec_meaning i
  generalize exec i = g at answer m
  cases m with
  | jmp a => cases answer; exact .branch ⟨rfl, rfl, rfl, rfl, rfl, rfl⟩ rfl (.inr rfl)
  | jsr a =>
    obtain ⟨room, rfl⟩ := pushThen_next answer
    exact .branch ⟨rfl, rfl, rfl, rfl, rfl, rfl⟩ rfl (.inl ⟨a, _, rfl, room, rfl⟩)
  | test f x b form => cases answer; exact .branch form rfl (.inr rfl)
  | compare f x a b form => cases answer; exact .branch form rfl (.inr rfl)
  | compareX f x a b form =>
    unfold compareBranchX at answer
    split at answer <;> cases answer
    exact .branch form rfl (.inr rfl)
  | alu8 a b form => exact .alu8 form answer
  | imm v b form => exact .imm form answer
  | alu16 a b form => exact .alu16 form answer
  | cio mm clk abs obs cbs srs tim =>
    rw [execCio] at answer
    split at answer
    case isTrue => cases answer
    case isFalse hw => cases answer; exact .cio rfl (by simpa using hw) rfl
  | lpi mm addr => exact .lpi rfl answer
  | tpa p mm x r b => exact runOf_aux (.tpa p mm x r b) h
  | xpa p mm x r b => exact runOf_aux (.xpa p mm x r b) h
  | tap mm x r b => exact runOf_aux (.tap mm x r b) h
  | tps p mm x b =>
    obtain ⟨room, -⟩ := pushThen_next answer
    exact runOf_aux (.tps p mm x b room) h
  | tsp mm x b =>
    obtain ⟨v, rest, items, -⟩ := popThen_next answer
    exact runOf_aux (.tsp mm x b items) h
  | rtsPlain hc mm x b =>
    obtain ⟨v, rest, items, -⟩ := popThen_next answer
    exact runOf_aux (.rtsPlain hc mm x b items) h
  | rtsWrite mm x b =>
    obtain ⟨a, v, rest, items, -⟩ := popTwoThen_next answer
    exact runOf_aux (.rtsWrite mm x b items) h
  | rtsRead mm x b =>
    obtain ⟨a, v, rest, items, -⟩ := popTwoThen_next answer
    exact runOf_aux (.rtsRead mm x b items) h

end Sys2Proof.Machine
end

section
/-! PROOFS. How every instruction ends: a branch sets pc and leaves the memories alone; any other
instruction does its Data Memory operation, may move the pointer, and sets pc (spec 00_scope R10,
20_memory R64 to R72, 60_exceptions R303). -/

namespace Sys2Proof.Machine

/-! ## The Data Memory operation at the end of an instruction -/

/-- An operation that is no write leaves Data Memory alone (R66). -/
theorem memTarget_eq_none {mm : MemOp} (h : memWrites mm = false) (ma : Addr) :
    memTarget mm ma = none := by
  cases mm with
  | none => rfl
  | rd => rfl
  | w1 => cases h
  | w2 => cases h

/-- `t` is reached from some `u`, which has the Data Memory, CH and CL of `s`, by the operation `mm`
at `ma` with the byte `v`, the move of an A source, and the end of the instruction. -/
def endsWithMemOp (s t : State) (mm : MemOp) (ma : Addr) (v : Byte) (next : Addr) : Prop :=
  ∃ (u : State) (a : ASrc), u.dm = s.dm ∧ u.ch = s.ch ∧ u.cl = s.cl ∧
    t = ((u.dmOp mm s.sl ma v).movePointer a).finish mm s.sl ma next

section
variable {s t u : State} {mm : MemOp} {ma next : Addr} {v : Byte}

/-- The forms whose A source does not move the pointer. -/
theorem endsWithMemOp_of_finish (ht : t = (u.dmOp mm s.sl ma v).finish mm s.sl ma next)
    (hdm : u.dm = s.dm) (hch : u.ch = s.ch) (hcl : u.cl = s.cl) :
    endsWithMemOp s t mm ma v next :=
  ⟨u, .r 0, hdm, hch, hcl, by rw [ht, movePointer_of_not_moves _ rfl]⟩

theorem endsWithMemOp_memEffect (h : endsWithMemOp s t mm ma v next) : MemEffect s t mm ma v := by
  obtain ⟨u, a, hdm, hch, hcl, ht⟩ := h
  exact memEffect_of_dmOp hdm hch hcl (by simp [ht]) (by simp [ht]) (by simp [ht]) (by simp [ht])

theorem endsWithMemOp_pc (h : endsWithMemOp s t mm ma v next) : t.pc = pcAfter s t mm ma next := by
  obtain ⟨u, a, -, -, -, rfl⟩ := h
  exact finish_pcAfter s _ mm ma next

theorem endsWithMemOp_dm (h : endsWithMemOp s t mm ma v next) :
    t.dm = (s.dmOp mm s.sl ma v).dm := by
  obtain ⟨u, a, hdm, -, -, ht⟩ := h
  rw [ht, finish_dm, movePointer_dm, dmOp_dm, dmOp_dm, hdm]

/-- The byte sent does not matter to an operation that is no write. -/
theorem memEffect_value {w : Byte} (hv : memWrites mm = true → v = w)
    (h : MemEffect s t mm ma v) : MemEffect s t mm ma w := by
  cases hw : memWrites mm with
  | true => exact hv hw ▸ h
  | false =>
    have none := memTarget_eq_none hw ma
    exact ⟨h.loads, h.keeps, h.latches, fun p hp => by simp [none] at hp, h.frame, h.noStore⟩

theorem dmOp_dm_value {w : Byte} (hv : memWrites mm = true → v = w) :
    (s.dmOp mm s.sl ma v).dm = (s.dmOp mm s.sl ma w).dm := by
  cases hw : memWrites mm with
  | true => rw [hv hw]
  | false => simp only [dmOp_dm, memTarget_eq_none hw]

end

/-! ## The families -/

section
variable {s t : State} {mm : MemOp}

theorem regAlu_ends {f : AluFn} {pc : Bool} {cc : CarryCtl} {d : Dest} {a : ASrc} {b : BSrc}
    (h : regAlu f pc cc mm d a b s = .next t) :
    endsWithMemOp s t mm s.phpl t.dum (s.pc + 1) := by
  obtain ⟨-, ht⟩ := regAlu_next_iff.mp h
  simp only [State.runReg8, carryControl_sl, carryControl_phpl, carryControl_nextPc] at ht
  have dum := congrArg State.dum ht
  simp only [finish_dum, movePointer_dum, dmOp_dum, carryOut_dum, writeC_dum] at dum
  rw [← dum] at ht
  exact ⟨_, a, by simp, by simp, by simp, ht⟩

theorem immAlu_ends {f : AluFn} {pc : Bool} {d : Dest} {imm : Byte} {b : BSrc}
    (h : immAlu f pc mm d imm b s = .next t) :
    endsWithMemOp s t mm s.phpl t.dum (s.pc + 1) := by
  obtain ⟨-, ht⟩ := immAlu_next_iff.mp h
  simp only [State.runImm] at ht
  have dum := congrArg State.dum ht
  simp only [finish_dum, dmOp_dum, carryOut_dum, writeC_dum] at dum
  rw [← dum] at ht
  exact endsWithMemOp_of_finish ht (by simp) (by simp) (by simp)

theorem regAluX_ends {f : AluFn} {cc : CarryCtl} {d : Dest} {a : ASrc} {b : BSrc}
    (h : regAluX f cc mm d a b s = .next t) :
    memWrites mm = false ∧ endsWithMemOp s t mm s.phpl 0 (s.pc + 1) := by
  obtain ⟨d', a', b', -, -, -, hw, ht⟩ := regAluX_next_iff.mp h
  simp only [State.runReg16, carryControl_sl, carryControl_phpl, carryControl_nextPc] at ht
  exact ⟨hw, endsWithMemOp_of_finish ht (by simp) (by simp) (by simp)⟩

theorem execLpi_ends {addr : Addr} (h : execLpi mm addr s = .next t) :
    endsWithMemOp s t mm addr 0 (s.pc + 1) := by
  cases h
  exact endsWithMemOp_of_finish (u := ((s.setPhpl addr).setDum (Config.freeByte s.free)).useFree 1)
    rfl rfl rfl rfl

/-- What the actions of a CIO leave alone (R250). -/
theorem runCio_keeps (s : State) (clk abs obs cbs srs tim : Bool) :
    let u := s.runCio clk abs obs cbs srs tim
    u.r = s.r ∧ u.ph = s.ph ∧ u.pl = s.pl ∧ u.ch = s.ch ∧ u.cl = s.cl ∧ u.dum = s.dum ∧ u.k = s.k ∧
      u.sl = s.sl ∧ u.ar = s.ar ∧ u.stack = s.stack ∧ u.dm = s.dm ∧ u.cm = s.cm ∧
      u.env = s.env := by
  cases clk <;> cases srs <;> cases tim <;> exact ⟨rfl, rfl, rfl, rfl, rfl, rfl, rfl, rfl, rfl, rfl,
    rfl, rfl, rfl⟩

/-- What the bodies of the stack and auxiliary group leave alone (R270). -/
theorem auxRun_keeps {i : Instr} {b : BSrc} {u : State} {next : Addr} (h : AuxRun s i mm b u next) :
    u.r = s.r ∧ u.sl = s.sl ∧ u.ab = s.ab ∧ u.sh = s.sh ∧ u.ch = s.ch ∧ u.cl = s.cl ∧
      u.dm = s.dm ∧ u.io = s.io ∧ u.env = s.env := by
  cases h with
  | rtsWrite => simp
  | _ => exact ⟨rfl, rfl, rfl, rfl, rfl, rfl, rfl, rfl, rfl⟩

theorem auxRun_effect {i : Instr} {b : BSrc} {u : State} {next : Addr}
    (h : AuxRun s i mm b u next) :
    AuxEffect s (s.runAux mm b (fun _ => u) next) mm b next := by
  obtain ⟨hr, hsl, hab, hsh, hch, hcl, hdm, hio, henv⟩ := auxRun_keeps h
  exact auxEffect_of rfl hr hsl hab hsh hch hcl hdm hio henv

end

/-! ## Every instruction -/

/-- A branch changes at most pc, the pointer and the stack; any other instruction ends with its Data
Memory operation, at the latched pointer and with the byte it sends, and goes on at its next
address. -/
theorem exec_ends {i : Instr} {s t : State} (h : exec i s = .next t) :
    (isBranch i = true ∧ memOpOf i = .none ∧
      t = { s with pc := t.pc, ph := t.ph, pl := t.pl, stack := t.stack }) ∨
    ∃ v, (memWrites (memOpOf i) = true → v = storedBy i t) ∧
      endsWithMemOp s t (memOpOf i) (latchOf i s) v (nextOf i s) := by
  have noWrite {mm : MemOp} {v w : Byte} (hw : memWrites mm = false) (h : memWrites mm = true) :
      v = w := absurd (hw.symm.trans h) (by decide)
  cases exec_runs h with
  | branch form keeps _ => exact .inl ⟨form.isBranch, form.memOp, keeps⟩
  | alu8 form answer =>
    rw [form.memOp, form.latch, form.stored, form.next]
    exact .inr ⟨_, fun _ => rfl, regAlu_ends answer⟩
  | imm form answer =>
    rw [form.memOp, form.latch, form.stored, form.next]
    exact .inr ⟨_, fun _ => rfl, immAlu_ends answer⟩
  | alu16 form answer =>
    rw [form.memOp, form.latch, form.next]
    obtain ⟨hw, ends⟩ := regAluX_ends answer
    exact .inr ⟨0, noWrite hw, ends⟩
  | @cio mm clk abs obs cbs srs tim instr hw result =>
    subst instr
    obtain ⟨-, -, -, hch, hcl, -, -, -, -, -, hdm, -⟩ := runCio_keeps s clk abs obs cbs srs tim
    exact .inr ⟨0, noWrite hw, endsWithMemOp_of_finish result hdm hch hcl⟩
  | lpi instr answer =>
    subst instr
    exact .inr ⟨0, fun _ => rfl, execLpi_ends answer⟩
  | @aux mm b u next run result =>
    have form := auxRun_form run
    rw [form.memOp, form.latch, form.stored, form.next]
    obtain ⟨-, -, -, -, hch, hcl, hdm, -, -⟩ := auxRun_keeps run
    have dum : t.dum = readB b s := by simp [result, State.runAux]
    rw [dum]
    exact .inr ⟨_, fun _ => rfl,
      endsWithMemOp_of_finish (u := u.setDum (readB b s)) result hdm hch hcl⟩

/-- Data Memory after any instruction: that of its operation. -/
theorem exec_dm {i : Instr} {s t : State} (h : exec i s = .next t) :
    t.dm = (s.dmOp (memOpOf i) s.sl (latchOf i s) (storedBy i t)).dm := by
  rcases exec_ends h with ⟨-, noOp, keeps⟩ | ⟨v, hv, ends⟩
  · rw [noOp, keeps]
    rfl
  · rw [endsWithMemOp_dm ends, dmOp_dm_value hv]

/-- Settles O51: a branch has no operation; any other instruction ends with its own. -/
theorem memoryEffectOfEvery : Obligations.MemoryEffectOfEvery := by
  intro i s t h
  rcases exec_ends h with ⟨-, noOp, keeps⟩ | ⟨v, hv, ends⟩
  · rw [noOp, keeps]
    exact memEffect_none rfl rfl rfl
  · exact memEffect_value hv (endsWithMemOp_memEffect ends)

/-- Settles O52: what is no branch ends by setting pc. -/
theorem nextPcOfEvery : Obligations.NextPcOfEvery := by
  intro i s t hb h
  rcases exec_ends h with ⟨branch, -⟩ | ⟨v, -, ends⟩
  · exact absurd (hb.symm.trans branch) (by decide)
  · exact endsWithMemOp_pc ends

end Sys2Proof.Machine
end

section
/-! PROOFS. What the instructions of each family leave in every piece of state: CIO, LPI, the stack
and auxiliary group, the frames of the ALU, and who may change SH and the other registers (spec
10_state, 44_register_alu to 48_stack_aux). -/

namespace Sys2Proof.Machine

/-! ## CIO and LPI -/

/-- SH, AB and the trace after the actions of a CIO (R250 to R253, R311). -/
theorem runCio_bus (s : State) (clk abs obs cbs srs tim : Bool) :
    let u := s.runCio clk abs obs cbs srs tim
    u.ab = (if clk = true then s.k else s.ab) ∧ u.io = s.io ++ [⟨u.ab, s.k, abs, obs, cbs⟩] ∧
      ∀ n, u.sh.getLsbD n = if n = 1 then srs || s.sh.getLsbD 1
        else if n = 4 then tim || s.sh.getLsbD 4 else s.sh.getLsbD n := by
  refine ⟨?_, ?_, fun n => ?_⟩
  · cases clk <;> cases srs <;> cases tim <;> rfl
  · cases clk <;> cases srs <;> cases tim <;> rfl
  · by_cases h1 : n = 1 <;> by_cases h4 : n = 4 <;> cases clk <;> cases srs <;> cases tim <;>
      simp_all [State.runCio]

/-- What a CIO without a write leaves (R250 to R253, R311). -/
structure CioEffect (s t : State) (mm : MemOp) (clk abs obs cbs srs tim : Bool) : Prop where
  ab : t.ab = if clk = true then s.k else s.ab
  io : t.io = s.io ++ [⟨t.ab, s.k, abs, obs, cbs⟩]
  strobe : t.sh.getLsbD 1 = (srs || s.sh.getLsbD 1)
  timer : t.sh.getLsbD 4 = (tim || s.sh.getLsbD 4)
  status : ∀ n, n ≠ 1 → n ≠ 4 → n ≠ 6 → t.sh.getLsbD n = s.sh.getLsbD n
  pedm : t.pedm = pedmAfter s mm s.phpl
  memory : MemEffect s t mm s.phpl 0
  pc : t.pc = pcAfter s t mm s.phpl (s.pc + 1)
  r : t.r = s.r
  ph : t.ph = s.ph
  pl : t.pl = s.pl
  k : t.k = s.k
  sl : t.sl = s.sl
  dum : t.dum = s.dum
  ar : t.ar = s.ar
  stack : t.stack = s.stack
  cm : t.cm = s.cm
  env : t.env = s.env

theorem runCio_effect {s t : State} {mm : MemOp} {clk abs obs cbs srs tim : Bool}
    (ht : t = ((s.runCio clk abs obs cbs srs tim).dmOp mm s.sl s.phpl 0).finish mm s.sl s.phpl
      s.nextPc) : CioEffect s t mm clk abs obs cbs srs tim := by
  obtain ⟨hab, hio, hsh⟩ := runCio_bus s clk abs obs cbs srs tim
  obtain ⟨hr, hph, hpl, hch, hcl, hdum, hk, hsl, har, hstack, hdm, hcm, henv⟩ :=
    runCio_keeps s clk abs obs cbs srs tim
  have ends := endsWithMemOp_of_finish ht hdm hch hcl
  have bit (n : Nat) (hn : n ≠ 6) :
      t.sh.getLsbD n = (s.runCio clk abs obs cbs srs tim).sh.getLsbD n := by
    rw [ht, finish_sh, dmOp_sh_bit _ _ _ _ _ hn]
  constructor
  case strobe => rw [bit 1 (by decide), hsh]; rfl
  case timer => rw [bit 4 (by decide), hsh]; rfl
  case status => intro n h1 h4 h6; rw [bit n h6, hsh, if_neg h1, if_neg h4]
  case pedm =>
    rw [ht, finish_pedm, dmOp_pedm, pedmAfter, State.pedm, hsh]
    rfl
  case memory => exact endsWithMemOp_memEffect ends
  case pc => exact endsWithMemOp_pc ends
  all_goals simp [*]

/-- Settles O41: the actions of R250, then the Data Memory operation and the end of the instruction.
-/
theorem cioResult : Obligations.CioResult := by
  intro mm clk abs obs cbs srs tim s hw
  have e : CioEffect s _ mm clk abs obs cbs srs tim := runCio_effect rfl
  exact ⟨_, by simp only [exec, execCio, hw]; rfl, e.ab, e.io, e.strobe, e.timer, e.status, e.pedm,
    e.memory, e.pc, e.r, e.ph, e.pl, e.k, e.sl, e.dum, e.ar, e.stack, e.cm, e.env⟩

/-- What an LPI leaves (R260). -/
structure LpiEffect (s t : State) (mm : MemOp) (addr : Addr) : Prop where
  ph : t.ph = addr.extractLsb' 8 8
  pl : t.pl = addr.extractLsb' 0 8
  memory : MemEffect s t mm addr 0
  pc : t.pc = pcAfter s t mm addr (s.pc + 1)
  status : ∀ n, n ≠ 6 → t.sh.getLsbD n = s.sh.getLsbD n
  pedm : t.pedm = pedmAfter s mm addr
  r : t.r = s.r
  sl : t.sl = s.sl
  k : t.k = s.k
  ab : t.ab = s.ab
  ar : t.ar = s.ar
  stack : t.stack = s.stack
  cm : t.cm = s.cm
  io : t.io = s.io
  env : t.env = s.env

theorem execLpi_effect {s t : State} {mm : MemOp} {addr : Addr} (h : execLpi mm addr s = .next t) :
    LpiEffect s t mm addr := by
  have ends := execLpi_ends h
  simp only [execLpi, Host.Outcome.next.injEq] at h
  constructor
  case memory => exact endsWithMemOp_memEffect ends
  case pc => exact endsWithMemOp_pc ends
  case status => intro n hn; rw [← h, finish_sh, dmOp_sh_bit _ _ _ _ _ hn]; rfl
  case pedm => rw [← h, finish_pedm, dmOp_pedm]; rfl
  all_goals simp [← h, highByte, lowByte]

/-- Settles O42: LPI is always executed. -/
theorem lpiResult : Obligations.LpiResult := by
  intro mm addr s
  have e : LpiEffect s _ mm addr := execLpi_effect rfl
  exact ⟨_, rfl, e.ph, e.pl, e.memory, e.pc, e.status, e.pedm, e.r, e.sl, e.k, e.ab, e.ar, e.stack,
    e.cm, e.io, e.env⟩

/-! ## The stack and auxiliary group -/

section
variable (s u : State) (mm : MemOp) (b : BSrc) (next : Addr)

/-! What the body leaves in the pointer, K, the auxiliary registers, the stack and Control Memory is
what the instruction leaves there (R270). -/

@[simp] theorem runAux_phpl : (s.runAux mm b (fun _ => u) next).phpl = u.phpl := by
  simp [State.runAux]
@[simp] theorem runAux_ph : (s.runAux mm b (fun _ => u) next).ph = u.ph := by simp [State.runAux]
@[simp] theorem runAux_pl : (s.runAux mm b (fun _ => u) next).pl = u.pl := by simp [State.runAux]
@[simp] theorem runAux_k : (s.runAux mm b (fun _ => u) next).k = u.k := by simp [State.runAux]
@[simp] theorem runAux_ar : (s.runAux mm b (fun _ => u) next).ar = u.ar := by simp [State.runAux]
@[simp] theorem runAux_stack : (s.runAux mm b (fun _ => u) next).stack = u.stack := by
  simp [State.runAux]
@[simp] theorem runAux_cm : (s.runAux mm b (fun _ => u) next).cm = u.cm := by simp [State.runAux]
@[simp] theorem runAux_aux (n : ArNum) : (s.runAux mm b (fun _ => u) next).aux n = u.aux n := by
  simp [State.runAux]
@[simp] theorem runAux_cmRead (a : Addr) :
    (s.runAux mm b (fun _ => u) next).cmRead a = u.cmRead a := by simp [State.runAux]

end

/-- Settles O43: the runs of TPA, XPA and TAP. -/
theorem pointerTransfers : Obligations.PointerTransfers := by
  intro p mm x r b s
  have tpa := AuxRun.tpa (s := s) p mm x r b
  have xpa := AuxRun.xpa (s := s) p mm x r b
  have tap := AuxRun.tap (s := s) mm x r b
  refine ⟨⟨_, exec_of_auxRun tpa, auxRun_effect tpa, ?_⟩,
    ⟨_, exec_of_auxRun xpa, auxRun_effect xpa, ?_⟩, ⟨_, exec_of_auxRun tap, auxRun_effect tap, ?_⟩⟩
  · rw [← adjusted_eq]
    simp +contextual [eq_comm]
  · rw [← adjusted_eq]
    simp +contextual [eq_comm]
  · simp

/-- Settles O44: the runs of TPS and TSP. -/
theorem stackTransfers : Obligations.StackTransfers := by
  refine ⟨fun p mm x b s room => ?tps, fun mm x b s v rest items => ?tsp⟩
  case tps =>
    have run := AuxRun.tps p mm x b room
    exact ⟨_, exec_of_auxRun run, auxRun_effect run, by simp [adjusted_eq]⟩
  case tsp =>
    have run := AuxRun.tsp mm x b items
    exact ⟨_, exec_of_auxRun run, auxRun_effect run, by simp⟩

/-- The codes of Table 5 that mean no operation (R105). -/
theorem CmCtl.noOp_of_code_le {c : CmCtl} (h : c.code ≤ 1) : c = .noOp ∨ c = .noOpAlt := by
  cases c with
  | noOp => exact .inl rfl
  | noOpAlt => exact .inr rfl
  | write | read => exact absurd h (by decide)

/-- Settles O45: the run of the plain return. -/
theorem plainReturn : Obligations.PlainReturn := by
  intro c mm x b s v rest hc items
  have run := AuxRun.rtsPlain (CmCtl.noOp_of_code_le hc) mm x b items
  exact ⟨_, exec_of_auxRun run, auxRun_effect run, by simp⟩

/-- The word RTS ,WC writes, as a number (R74, R280). -/
theorem controlWord_toNat (s : State) :
    s.controlWord.toNat = (255 - s.k.toNat) * 65536 + s.ph.toNat * 256 + s.pl.toNat := by
  have := s.k.isLt
  rw [State.controlWord, toNat_append_eq_mul_add, toNat_append_eq_mul_add, BitVec.toNat_not]
  omega

/-- The three bytes of a word, as a number (R281). -/
theorem setControlWord_toNat (s : State) (w : CWord) :
    (s.setControlWord w).k.toNat * 65536 + (s.setControlWord w).ph.toNat * 256 +
      (s.setControlWord w).pl.toNat = w.toNat := by
  have := w.isLt
  simp only [State.setControlWord, setPl_k, setPh_k, setK_k, setPl_ph, setPh_ph, setPl_pl,
    BitVec.extractLsb'_toNat, Nat.shiftRight_eq_div_pow]
  omega

/-- Settles O46: the run of RTS ,WC, with the write to Control Memory read back. -/
theorem writeReturn : Obligations.WriteReturn := by
  intro mm x b s a v rest hcm items
  have run := AuxRun.rtsWrite mm x b items
  have read (n : Addr) : ((s.setStack rest).cmWrite a s.controlWord).cmRead n =
      if Config.cmWritable a = true ∧ a = n then s.controlWord else s.cmRead n :=
    cmWrite_cmRead (s.setStack rest) hcm a n _
  refine ⟨_, exec_of_auxRun run, auxRun_effect run, by simp, ?_, fun n hn => ?_, by simp, by simp,
    by simp⟩
  · rw [runAux_cmRead, read]
    by_cases hw : Config.cmWritable a = true
    · simp [hw, controlWord_toNat]
    · simp [hw]
  · rw [runAux_cmRead, read, if_neg fun h => hn h.2.symm]

/-- Settles O47: the run of RTS ,RC, which takes the word apart. -/
theorem readReturn : Obligations.ReadReturn := by
  intro mm x b s a v rest items
  have run := AuxRun.rtsRead mm x b items
  refine ⟨_, exec_of_auxRun run, auxRun_effect run, runAux_stack .., ?_, runAux_ar ..,
    runAux_cm ..⟩
  rw [runAux_k, runAux_ph, runAux_pl, setControlWord_toNat]

/-! ## The ALU -/

/-- What an 8-bit form does, in the words of the statements. -/
theorem alu8_effect {i : Instr} {f : AluFn} {cc : CarryCtl} {mm : MemOp} {d : Dest} {move : Addr}
    {s t : State} {r : Byte} (form : Alu8Form i f cc mm d move)
    (e : Alu8Effect s t mm d move r) : Alu8Effect s t (memOpOf i) d (pointerMove i) t.dum := by
  rw [form.memOp, form.move, e.dum]
  exact e

/-- A function without a carry out leaves the carry in. -/
theorem givesCarry_getD {f : AluFn} {pc : Bool} (h : givesCarry f pc) (hpc : pc = false)
    (a b : Byte) (c d : Bool) : (f a b c).2.getD d = d := by
  rw [givesCarry_none (hpc ▸ h)]
  rfl

/-- What `i` leaves in `t`, family by family. -/
inductive EffectOf (i : Instr) (s t : State) : Prop
  | branch (form : BranchForm i)
      (keeps : t = { s with pc := t.pc, ph := t.ph, pl := t.pl, stack := t.stack })
      (stack : (∃ a v, i = .jsr a ∧ s.stack.length < 96 ∧ t.stack = v :: s.stack) ∨
        t.stack = s.stack)
  | alu8 {d : Dest} (latch : latchOf i s = s.phpl) (dest : destOf i = some d)
      (destX : destXOf i = none)
      (effect : Alu8Effect s t (memOpOf i) d (pointerMove i) t.dum)
      (carry : d ≠ .sh → producesCarry i = false → t.carry = carryIn (carryCtlOf i) s)
  | alu16 {d : Fin 7} (latch : latchOf i s = s.phpl) (dest : destOf i = none)
      (destX : destXOf i = some (.r (pairLow d)))
      (effect : Alu16Effect s t (memOpOf i) d (t.x (pairLow d)) (t.x (pairHigh d)))
      (carry : producesCarry i = false → t.carry = carryIn (carryCtlOf i) s)
  | cio {mm : MemOp} {clk abs obs cbs srs tim : Bool}
      (instr : i = .cio mm clk abs obs cbs srs tim)
      (effect : CioEffect s t mm clk abs obs cbs srs tim)
  | lpi {mm : MemOp} {addr : Addr} (instr : i = .lpi mm addr) (effect : LpiEffect s t mm addr)
  | aux {mm : MemOp} {b : BSrc} {u : State} {next : Addr} (run : AuxRun s i mm b u next)
      (result : t = s.runAux mm b (fun _ => u) next)

/-- What an instruction that answers a next state did. -/
theorem exec_effect {i : Instr} {s t : State} (h : exec i s = .next t) : EffectOf i s t := by
  cases exec_runs h with
  | branch form keeps stack => exact .branch form keeps stack
  | alu8 form answer =>
    obtain ⟨e, carry⟩ := regAlu_effect form.carry answer
    refine .alu8 (form.latch s) form.dest form.destX (alu8_effect form e) fun hd hpc => ?_
    rw [carry hd, form.carryCtl, givesCarry_getD form.carry hpc]
  | imm form answer =>
    obtain ⟨e, carry⟩ := immAlu_effect form.carry answer
    refine .alu8 (form.latch s) form.dest form.destX (alu8_effect form e) fun hd hpc => ?_
    rw [carry hd, form.carryCtl, givesCarry_getD form.carry hpc]
    rfl
  | alu16 form answer =>
    obtain ⟨d, a, b, rfl, rfl, rfl, -⟩ := regAluX_next_iff.mp answer
    obtain ⟨e, carry⟩ := regAluX_effect answer
    refine .alu16 (form.latch s) form.dest form.destX ?_ fun hpc => ?_
    · rw [form.memOp, e.low, e.high]
      exact e
    · rw [carry, form.carryCtl]
      exact givesCarry_getD form.carry hpc ..
  | cio instr hw result => exact .cio instr (runCio_effect result)
  | lpi instr answer => exact .lpi instr (execLpi_effect answer)
  | aux run result => exact .aux run result

/-- Settles O34: only the 8-bit forms have a destination. -/
theorem alu8Frame : Obligations.Alu8Frame := by
  intro i d s t hd h
  cases exec_effect h with
  | alu8 latch dest destX effect carry =>
    cases dest.symm.trans hd
    exact effect
  | branch form => cases form.dest.symm.trans hd
  | alu16 latch dest => cases dest.symm.trans hd
  | cio instr => subst instr; cases hd
  | lpi instr => subst instr; cases hd
  | aux run => cases (auxRun_form run).dest.symm.trans hd

/-- Settles O39: only the 16-bit forms have a destination pair. -/
theorem alu16Frame : Obligations.Alu16Frame := by
  intro i d s t hd h
  cases exec_effect h with
  | alu16 latch dest destX effect carry =>
    have pair := pairD_pairLow d
    rw [← Option.some.inj (destX.symm.trans hd), pairD_pairLow] at pair
    cases pair
    exact effect
  | branch form => cases form.destX.symm.trans hd
  | alu8 latch dest destX => cases destX.symm.trans hd
  | cio instr => subst instr; cases hd
  | lpi instr => subst instr; cases hd
  | aux run => cases (auxRun_form run).destX.symm.trans hd

/-! ## Who may change what -/

/-- What an instruction may do to SH: write it as its destination, fire the one-shots of CIO, or
leave every bit but the carry and bit 6 alone. -/
theorem exec_status {i : Instr} {s t : State} (h : exec i s = .next t) :
    (destOf i = some .sh ∧ ∀ n, 2 ≤ n → n ≤ 5 → t.sh.getLsbD n = s.sh.getLsbD n) ∨
    (∃ mm clk abs obs cbs srs tim, i = .cio mm clk abs obs cbs srs tim ∧
      CioEffect s t mm clk abs obs cbs srs tim) ∨
    ((∀ n, n ≠ 0 → n ≠ 6 → t.sh.getLsbD n = s.sh.getLsbD n) ∧
      t.pedm = pedmAfter s (memOpOf i) (latchOf i s) ∧
      (producesCarry i = false → t.carry = carryIn (carryCtlOf i) s)) := by
  cases exec_effect h with
  | branch form keeps stack =>
    refine .inr (.inr ⟨fun n _ _ => by rw [keeps], ?_, fun _ => ?_⟩)
    · rw [form.memOp, keeps]
      rfl
    · rw [form.carryCtl, keeps]
      rfl
  | @alu8 d latch dest destX effect carry =>
    by_cases hd : d = .sh
    · exact .inl ⟨hd ▸ dest, effect.statusOfSh hd⟩
    · exact .inr (.inr ⟨effect.status hd, latch ▸ effect.pedm hd, carry hd⟩)
  | alu16 latch dest destX effect carry =>
    exact .inr (.inr ⟨effect.status, latch ▸ effect.pedm, carry⟩)
  | cio instr effect => exact .inr (.inl ⟨_, _, _, _, _, _, _, instr, effect⟩)
  | lpi instr effect =>
    subst instr
    exact .inr (.inr ⟨fun n _ h6 => effect.status n h6, effect.pedm,
      fun _ => effect.status 0 (by decide)⟩)
  | aux run result =>
    have form := auxRun_form run
    have effect := result ▸ auxRun_effect run
    refine .inr (.inr ⟨fun n _ h6 => effect.status n h6, ?_, fun _ => ?_⟩)
    · rw [form.memOp, form.latch]
      exact effect.pedm
    · rw [form.carryCtl]
      exact effect.status 0 (by decide)

/-- Settles O53: a write of SH keeps bits 2 to 5, CIO changes bits 1 and 4 by its one-shots, and
every other instruction changes at most the carry and bit 6. -/
theorem statusOwners : Obligations.StatusOwners := by
  intro i s t h
  rcases exec_status h with ⟨hd, bits⟩ | ⟨mm, clk, abs, obs, cbs, srs, tim, rfl, e⟩ |
    ⟨bits, pedm, carry⟩
  · exact ⟨bits 2 (by decide) (by decide), bits 3 (by decide) (by decide),
      bits 5 (by decide) (by decide), .inl (bits 4 (by decide) (by decide)),
      fun hne => absurd hd hne⟩
  · have status (n : Nat) (hn : n = 0 ∨ n = 2 ∨ n = 3 ∨ n = 5 ∨ n = 7) :
        t.sh.getLsbD n = s.sh.getLsbD n := e.status n (by omega) (by omega) (by omega)
    refine ⟨status 2 (by decide), status 3 (by decide), status 5 (by decide), ?timer,
      fun _ => ⟨status 7 (by decide), e.pedm, ?strobe, fun _ => status 0 (by decide)⟩⟩
    case timer =>
      cases tim with
      | true => exact .inr ⟨mm, clk, abs, obs, cbs, srs, rfl, by rw [e.timer, Bool.true_or]⟩
      | false => exact .inl (by rw [e.timer, Bool.false_or])
    case strobe =>
      cases srs with
      | true =>
        exact .inr ⟨mm, clk, abs, obs, cbs, tim, rfl, by rw [State.ibs, e.strobe, Bool.true_or]⟩
      | false => exact .inl (by rw [State.ibs, e.strobe, Bool.false_or]; rfl)
  · exact ⟨bits 2 (by decide) (by decide), bits 3 (by decide) (by decide),
      bits 5 (by decide) (by decide), .inl (bits 4 (by decide) (by decide)),
      fun _ => ⟨bits 7 (by decide) (by decide), pedm, .inl (bits 1 (by decide) (by decide)), carry⟩⟩

/-- The auxiliary registers, the stack, Control Memory and K, run by run (R273 to R281). -/
theorem auxRun_owners {i : Instr} {s u : State} {mm : MemOp} {b : BSrc} {next : Addr}
    (run : AuxRun s i mm b u next) :
    ((∃ p mm x r b, (i = .tpa p mm x r b ∨ i = .xpa p mm x r b) ∧
      ∀ n, n ≠ r → u.aux n = s.aux n) ∨ u.ar = s.ar) ∧
    ((∃ a, i = .jsr a) ∨ (∃ p mm x b, i = .tps p mm x b) ∨ (∃ mm x b, i = .tsp mm x b) ∨
      (∃ c mm x b, i = .rts c mm x b) ∨ u.stack = s.stack) ∧
    ((∃ mm x b, i = .rts .write mm x b) ∨ u.cm = s.cm) ∧
    ((∃ mm x b, i = .rts .read mm x b) ∨ u.k = s.k) := by
  cases run with
  | tpa p mm x r b =>
    exact ⟨.inl ⟨p, mm, x, r, b, .inl rfl, fun n hn => by simp [Ne.symm hn]⟩,
      .inr (.inr (.inr (.inr rfl))), .inr rfl, .inr rfl⟩
  | xpa p mm x r b =>
    exact ⟨.inl ⟨p, mm, x, r, b, .inr rfl, fun n hn => by simp [Ne.symm hn]⟩,
      .inr (.inr (.inr (.inr rfl))), .inr rfl, .inr rfl⟩
  | tap mm x r b => exact ⟨.inr rfl, .inr (.inr (.inr (.inr rfl))), .inr rfl, .inr rfl⟩
  | tps p mm x b => exact ⟨.inr rfl, .inr (.inl ⟨p, mm, x, b, rfl⟩), .inr rfl, .inr rfl⟩
  | tsp mm x b => exact ⟨.inr rfl, .inr (.inr (.inl ⟨mm, x, b, rfl⟩)), .inr rfl, .inr rfl⟩
  | rtsPlain hc mm x b =>
    exact ⟨.inr rfl, .inr (.inr (.inr (.inl ⟨_, mm, x, b, rfl⟩))), .inr rfl, .inr rfl⟩
  | rtsWrite mm x b =>
    exact ⟨.inr (by simp), .inr (.inr (.inr (.inl ⟨_, mm, x, b, rfl⟩))), .inl ⟨mm, x, b, rfl⟩,
      .inr (by simp)⟩
  | rtsRead mm x b =>
    exact ⟨.inr rfl, .inr (.inr (.inr (.inl ⟨_, mm, x, b, rfl⟩))), .inr rfl, .inl ⟨mm, x, b, rfl⟩⟩

/-- Settles O54: the frames of the families, and of the stack and auxiliary group run by run. -/
theorem registerOwners : Obligations.RegisterOwners := by
  intro i s t h
  cases exec_effect h with
  | branch form keeps stack =>
    refine ⟨.inr ⟨by rw [keeps], by rw [keeps]⟩, .inr (by rw [keeps]), ?_, .inr (by rw [keeps]),
      .inr (.inr (by rw [keeps])), .inr (by rw [keeps]), by rw [keeps]⟩
    rcases stack with ⟨a, v, instr, -⟩ | same
    · exact .inl ⟨a, instr⟩
    · exact .inr (.inr (.inr (.inr same)))
  | @alu8 d latch dest destX e carry =>
    refine ⟨.inr ⟨e.ab, e.io⟩, .inr e.ar, .inr (.inr (.inr (.inr e.stack))), .inr e.cm, ?_, ?_,
      e.env⟩
    · by_cases hd : d = .k
      · exact .inl (hd ▸ dest)
      · exact .inr (.inr (e.k hd))
    · by_cases hd : d = .sl
      · exact .inl (hd ▸ dest)
      · exact .inr (e.sl hd)
  | alu16 latch dest destX e carry =>
    exact ⟨.inr ⟨e.ab, e.io⟩, .inr e.ar, .inr (.inr (.inr (.inr e.stack))), .inr e.cm,
      .inr (.inr e.k), .inr e.sl, e.env⟩
  | cio instr e =>
    exact ⟨.inl ⟨_, _, _, _, _, _, _, instr, by rw [e.io, List.length_append]; rfl⟩, .inr e.ar,
      .inr (.inr (.inr (.inr e.stack))), .inr e.cm, .inr (.inr e.k), .inr e.sl, e.env⟩
  | lpi instr e =>
    exact ⟨.inr ⟨e.ab, e.io⟩, .inr e.ar, .inr (.inr (.inr (.inr e.stack))), .inr e.cm,
      .inr (.inr e.k), .inr e.sl, e.env⟩
  | aux run result =>
    have e := auxRun_effect run
    obtain ⟨ar, stack, cm, k⟩ := auxRun_owners run
    subst result
    simp only [runAux_ar, runAux_aux, runAux_stack, runAux_cm, runAux_k]
    exact ⟨.inr ⟨e.ab, e.io⟩, ar, stack, cm, .inr k, .inr e.sl, e.env⟩

end Sys2Proof.Machine
end

section
/-! PROOFS. What a step stores: at most one byte of fitted Data Memory and one writable word of
Control Memory; the invariant, and what the stores leave alone (spec 10_state R39, 20_memory R63,
R72, R75). -/

namespace Sys2Proof.Machine

/-! ## One store -/

/-- `m'` is `m`, or `m` with one value stored at a key of `keys`. -/
def storesOnce {n : Nat} (keys : Nat → Prop) (m m' : Memory n) : Prop :=
  m' = m ∨ ∃ k v, keys k ∧ m' = Memory.set m k v

section
variable {n : Nat} {keys : Nat → Prop} {m m' : Memory n}

theorem storesOnce_wf (h : storesOnce keys m m') (hm : Memory.wf m) : Memory.wf m' := by
  rcases h with rfl | ⟨k, v, -, rfl⟩
  · exact hm
  · exact memory_wf_set hm k v

theorem storesOnce_keys (h : storesOnce keys m m') (hm : ∀ c ∈ m, keys c.1) :
    ∀ c ∈ m', keys c.1 := by
  rcases h with rfl | ⟨k, v, hk, rfl⟩
  · exact hm
  · intro c hc
    rcases memory_mem_set hc with rfl | old
    · exact hk
    · exact hm c old

theorem storesOnce_get (h : storesOnce keys m m') {k : Nat} (hk : ¬keys k) :
    Memory.get m' k = Memory.get m k := by
  rcases h with rfl | ⟨j, v, hj, rfl⟩
  · rfl
  · exact memory_get_set_ne m v fun e => hk (e ▸ hj)

end

/-! ## What may be stored -/

/-- The key of a byte whose word is fitted (R63, R72). -/
theorem reachableDm_physAddr {w : Byte} {a : Addr} (h : dmPresent w a = true) :
    reachableDm (physAddr w a) := by
  have ha := a.isLt
  have bank : physAddr w a / 65536 = bankFor w a := by rw [physAddr]; omega
  have addr : physAddr w a % 65536 = a.toNat := by rw [physAddr]; omega
  rw [reachableDm, bank, addr, ← wordNumber_eq]
  refine ⟨?_, fun low => bankFor_of_lt w low, h⟩
  by_cases low : a.toNat < 0x2000
  · rw [bankFor_of_lt w low]
    exact Nat.succ_pos _
  · rw [bankFor_of_not_lt w low]
    exact (Config.bankOfSl w).isLt

/-- The key `k` of `cm` is a writable word (R75). -/
def writableCm (k : Nat) : Prop := ∃ a : Addr, Config.cmWritable a = true ∧ k = a.toNat

theorem dmOp_storesOnce (s : State) (mm : MemOp) (w : Byte) (ma : Addr) (v : Byte) :
    storesOnce reachableDm s.dm (s.dmOp mm w ma v).dm := by
  rw [dmOp_dm]
  cases memTarget mm ma with
  | none => exact .inl rfl
  | some p =>
    dsimp only
    split
    · next fitted => exact .inr ⟨_, v, reachableDm_physAddr fitted, rfl⟩
    · exact .inl rfl

theorem cmWrite_storesOnce (s : State) (a : Addr) (w : CWord) :
    storesOnce writableCm s.cm (s.cmWrite a w).cm := by
  unfold State.cmWrite
  split
  · next writable => exact .inr ⟨_, w, ⟨a, writable, rfl⟩, rfl⟩
  · exact .inl rfl

/-! ## What a step stores -/

/-- What a step may do to the memories and the stack. -/
structure Stores (s t : State) : Prop where
  dm : storesOnce reachableDm s.dm t.dm
  cm : storesOnce writableCm s.cm t.cm
  stack : s.stack.length ≤ 96 → t.stack.length ≤ 96

/-- What the bodies of the stack and auxiliary group do to Control Memory and to the stack. -/
theorem auxRun_stores {i : Instr} {s u : State} {mm : MemOp} {b : BSrc} {next : Addr}
    (run : AuxRun s i mm b u next) :
    storesOnce writableCm s.cm u.cm ∧ (s.stack.length ≤ 96 → u.stack.length ≤ 96) := by
  cases run with
  | tpa | xpa | tap => exact ⟨.inl rfl, id⟩
  | tps p mm x b room => exact ⟨.inl rfl, fun _ => room⟩
  | tsp mm x b items => exact ⟨.inl rfl, fun deep => by simp_all; omega⟩
  | rtsPlain hc mm x b items => exact ⟨.inl rfl, fun deep => by simp_all; omega⟩
  | rtsWrite mm x b items =>
    exact ⟨cmWrite_storesOnce (s.setStack _) _ _, fun deep => by simp_all; omega⟩
  | rtsRead mm x b items =>
    exact ⟨.inl rfl, fun deep => by simp_all [State.setControlWord]; omega⟩

theorem exec_stores {i : Instr} {s t : State} (h : exec i s = .next t) : Stores s t := by
  have dm : storesOnce reachableDm s.dm t.dm := by
    rw [exec_dm h]
    exact dmOp_storesOnce ..
  cases exec_effect h with
  | branch form keeps stack =>
    refine ⟨dm, .inl (by rw [keeps]), fun deep => ?_⟩
    rcases stack with ⟨a, v, -, room, pushed⟩ | same
    · rw [pushed]
      exact room
    · rwa [same]
  | alu8 latch dest destX e carry => exact ⟨dm, .inl e.cm, fun deep => by rwa [e.stack]⟩
  | alu16 latch dest destX e carry => exact ⟨dm, .inl e.cm, fun deep => by rwa [e.stack]⟩
  | cio instr e => exact ⟨dm, .inl e.cm, fun deep => by rwa [e.stack]⟩
  | lpi instr e => exact ⟨dm, .inl e.cm, fun deep => by rwa [e.stack]⟩
  | aux run result =>
    obtain ⟨cm, stack⟩ := auxRun_stores run
    subst result
    exact ⟨dm, by rwa [runAux_cm], by rwa [runAux_stack]⟩

/-- The environment touches no memory and no stack (R312, R314, R317, R318). -/
theorem envStep_keeps (s : State) (e : EnvStep) :
    (s.envStep e).dm = s.dm ∧ (s.envStep e).cm = s.cm ∧ (s.envStep e).stack = s.stack := by
  cases e with
  | inputStrobe data ib9 =>
    rw [State.envStep]
    split <;> exact ⟨rfl, rfl, rfl⟩
  | setReady | timerExpire | setHaltStep => exact ⟨rfl, rfl, rfl⟩

theorem step_stores {s t : State} (h : step s = .next t) : Stores s t := by
  rcases step_cases s with ⟨e, rest, -, hs⟩ | ⟨rest, hs⟩ | ⟨i, rest, -, hs⟩ | ⟨why, -, hs⟩
  · cases hs.symm.trans h
    obtain ⟨dm, cm, stack⟩ := envStep_keeps (s.setEnv rest) e
    exact ⟨.inl dm, .inl cm, fun deep => by rwa [stack]⟩
  · cases hs.symm.trans h
    exact ⟨.inl rfl, .inl rfl, id⟩
  · obtain ⟨dm, cm, stack⟩ := exec_stores (hs.symm.trans h)
    exact ⟨dm, cm, stack⟩
  · cases hs.symm.trans h

/-- Settles O59: what a step stores is canonical and in range, and a push needs room. -/
theorem invariantKept : Obligations.InvariantKept := by
  intro s t inv h
  obtain ⟨dm, cm, stack⟩ := step_stores h
  have writable_lt (k : Nat) (hk : writableCm k) : k < 65536 := by
    obtain ⟨a, -, rfl⟩ := hk
    exact a.isLt
  refine ⟨storesOnce_wf dm inv.dmForm, storesOnce_keys dm inv.dmReach, storesOnce_wf cm inv.cmForm,
    ?_, stack inv.stackDepth⟩
  rcases cm with same | ⟨k, v, hk, stored⟩
  · rw [same]
    exact inv.cmSpace
  · exact storesOnce_keys (keys := (· < 65536)) (.inr ⟨k, v, writable_lt k hk, stored⟩) inv.cmSpace

/-- Settles O60: the memories and the stack are empty after reset. -/
theorem invariantAtReset : Obligations.InvariantAtReset :=
  ⟨⟨reset_dm_wf, by simp [State.reset], reset_cm_wf, by simp [State.reset], by simp [State.reset]⟩,
    rfl⟩

/-- Settles O56: a store is at a writable word or at a reachable byte. -/
theorem unwritableKept : Obligations.UnwritableKept := by
  intro s t h
  obtain ⟨dm, cm, -⟩ := step_stores h
  refine ⟨fun a => ?_, fun k => ?_⟩
  · by_cases hw : Config.cmWritable a = true
    · exact .inl hw
    · refine .inr (storesOnce_get cm ?_)
      rintro ⟨b, writable, same⟩
      exact hw (BitVec.eq_of_toNat_eq same ▸ writable)
  · by_cases hk : reachableDm k
    · exact .inl hk
    · exact .inr (storesOnce_get dm hk)

end Sys2Proof.Machine
end

section
/-! PROOFS. Two instructions together: what the bank of SL changes, a store and the load after it, a
call and its return, a Control Memory word written and read back (spec 20_memory, 48_stack_aux). -/

namespace Sys2Proof.Machine

/-! ## Banks -/

/-- DM_PRESENT by the number of the word (R61, R72). -/
theorem dmPresent_eq (w : Byte) (a : Addr) :
    dmPresent w a = Config.dmWordPresent (bankFor w a) (BitVec.ofNat 15 (a.toNat / 2)) := by
  rw [dmPresent, wordNumber_eq]

section
variable {a : Addr} (low : a.toNat < 0x2000) (v w : Byte)
include low

/-! Below $2000 the bank that SL selects does not matter (R63). -/

theorem bankFor_low : bankFor v a = bankFor w a := by rw [bankFor_of_lt v low, bankFor_of_lt w low]

theorem dmPresent_low : dmPresent v a = dmPresent w a := by
  rw [dmPresent, dmPresent, bankFor_low low v w]

theorem dmRead_low (s : State) : s.dmRead v a = s.dmRead w a := by
  rw [State.dmRead, State.dmRead, physAddr, physAddr, bankFor_low low v w]

theorem dmWrite_low (s : State) (d : Byte) : s.dmWrite v a d = s.dmWrite w a d := by
  rw [State.dmWrite, State.dmWrite, dmPresent_low low v w, physAddr, physAddr, bankFor_low low v w]

omit v w in
theorem otherByte_low : (otherByte a).toNat < 0x2000 := by
  have := otherByte_toNat a
  omega

theorem chClAfterWrite_low (s : State) : s.chClAfterWrite v a = s.chClAfterWrite w a := by
  simp only [State.chClAfterWrite, dmPresent_low low v w, dmRead_low low v w,
    dmRead_low (otherByte_low low) v w]

theorem dmOp_low (s : State) (mm : MemOp) (d : Byte) : s.dmOp mm v a d = s.dmOp mm w a d := by
  cases mm with
  | none => rfl
  | rd =>
    simp only [State.dmOp, dmPresent_low low v w, dmRead_low low v w,
      dmRead_low (otherByte_low low) v w]
  | w1 => rw [State.dmOp, State.dmOp, chClAfterWrite_low low v w, dmWrite_low low v w]
  | w2 =>
    rw [State.dmOp, State.dmOp, chClAfterWrite_low low v w, dmWrite_low (otherByte_low low) v w]

theorem finish_low (s : State) (mm : MemOp) (next : Addr) :
    s.finish mm v a next = s.finish mm w a next := by
  rw [State.finish, State.finish, readFlagged, readFlagged, dmPresent_low low v w]

end

/-! ## Changes that an instruction's end does not see -/

/-- A change of the state apart from Data Memory, CH, CL, SH, pc and the free values. -/
structure Unseen (g : State → State) : Prop where
  dm : ∀ s, (g s).dm = s.dm
  sh : ∀ s, (g s).sh = s.sh
  free : ∀ s, (g s).free = s.free
  setDm : ∀ s m, (g s).setDm m = g (s.setDm m)
  setChCl : ∀ s c l, (g s).setChCl c l = g (s.setChCl c l)
  setSh : ∀ s v, (g s).setSh v = g (s.setSh v)
  setPc : ∀ s a, (g s).setPc a = g (s.setPc a)
  useFree : ∀ s n, (g s).useFree n = g (s.useFree n)

theorem unseen_setSl (v : Byte) : Unseen fun s => s.setSl v := by
  constructor <;> intros <;> rfl

section
variable {g : State → State} (h : Unseen g) (s : State)
include h

theorem dmRead_unseen (w : Byte) (a : Addr) : (g s).dmRead w a = s.dmRead w a := by
  rw [State.dmRead, h.dm, State.dmRead]

theorem dmWrite_unseen (w : Byte) (a : Addr) (v : Byte) :
    (g s).dmWrite w a v = g (s.dmWrite w a v) := by
  rw [State.dmWrite, State.dmWrite, h.dm, h.setDm, apply_ite g]

theorem chClFree_unseen : (g s).chClFree = g s.chClFree := by
  rw [State.chClFree, State.chClFree, h.free, h.setChCl, h.useFree]

theorem chClAfterWrite_unseen (w : Byte) (ma : Addr) :
    (g s).chClAfterWrite w ma = g (s.chClAfterWrite w ma) := by
  unfold State.chClAfterWrite
  cases Config.chclAfterWrite with
  | unchanged => exact h.useFree ..
  | any => exact chClFree_unseen h s
  | loadedOldWord =>
    simp only [dmRead_unseen h, h.setChCl, h.useFree, chClFree_unseen h, apply_ite g]

theorem dmOp_unseen (mm : MemOp) (w : Byte) (ma : Addr) (v : Byte) :
    (g s).dmOp mm w ma v = g (s.dmOp mm w ma v) := by
  cases mm with
  | none => rfl
  | rd =>
    simp only [State.dmOp, State.setShBit, dmRead_unseen h, h.setChCl, chClFree_unseen h, h.sh,
      h.setSh, apply_ite g]
  | w1 | w2 => rw [State.dmOp, State.dmOp, chClAfterWrite_unseen h, dmWrite_unseen h]

theorem finish_unseen (mm : MemOp) (w : Byte) (ma next : Addr) :
    (g s).finish mm w ma next = g (s.finish mm w ma next) := by
  have dmpi : (g s).dmpi = s.dmpi := by rw [State.dmpi, h.sh, State.dmpi]
  rw [State.finish, State.finish, dmpi, State.takeVector, State.takeVector, h.setPc, h.setPc,
    apply_ite g]

end

theorem dmOp_setSl (s : State) (v : Byte) (mm : MemOp) (w : Byte) (ma : Addr) (d : Byte) :
    (s.setSl v).dmOp mm w ma d = (s.dmOp mm w ma d).setSl v :=
  dmOp_unseen (unseen_setSl v) s mm w ma d

theorem finish_setSl (s : State) (v : Byte) (mm : MemOp) (w : Byte) (ma next : Addr) :
    (s.setSl v).finish mm w ma next = (s.finish mm w ma next).setSl v :=
  finish_unseen (unseen_setSl v) s mm w ma next

/-- An LPI below $2000 does the same whatever SL holds, and SL stays (R63, R260). -/
theorem execLpi_setSl {mm : MemOp} {a : Addr} {s t : State} (low : a.toNat < 0x2000) (v : Byte)
    (h : execLpi mm a s = .next t) : execLpi mm a (s.setSl v) = .next (t.setSl v) := by
  injection h with h
  have same : ((s.setSl v).setPhpl a).setDum (Config.freeByte s.free) =
      ((s.setPhpl a).setDum (Config.freeByte s.free)).setSl v := rfl
  have free (u : State) : (u.setSl v).useFree 1 = (u.useFree 1).setSl v := rfl
  rw [execLpi, setSl_free, setSl_sl, setSl_nextPc, same, free, dmOp_low low v s.sl,
    finish_low low v s.sl, dmOp_setSl, finish_setSl, h]

/-- Settles O57: the keys of O51's effect written out; below $2000 two LPI differ in SL alone. -/
theorem globalRegionAndBanks : Obligations.GlobalRegionAndBanks := by
  refine ⟨fun i s t h => ?_, fun a v s low => ?_⟩
  · have e := memoryEffectOfEvery i s t h
    have present (p : Addr) := dmPresent_eq s.sl p
    refine ⟨fun hrd => ?_, fun p hp => ?_⟩
    · have loads := e.loads hrd
      rw [present] at loads
      exact loads
    · have target : memTarget (memOpOf i) (latchOf i s) = some p := by
        rcases hp with ⟨hmm, rfl⟩ | ⟨hmm, rfl⟩ <;> rw [hmm] <;> rfl
      refine ⟨fun hwf => ?_, e.frame p target⟩
      have stores := e.stores p target hwf
      rw [present] at stores
      exact stores
  · exact ⟨⟨_, _, rfl, execLpi_setSl low v rfl, rfl, rfl, rfl⟩,
      fun mm => ⟨_, _, rfl, execLpi_setSl low v rfl, rfl⟩⟩

/-! ## A store and the load after it -/

/-- SET to DUM is always executed (R230). -/
theorem exec_set_dum (mm : MemOp) (v : Byte) (s : State) :
    ∃ t, exec (.set mm .dum v) s = .next t ∧ Alu8Effect s t mm .dum 0 v := by
  have runs : immAlu orFn false mm .dum v .zero s = .next (s.runImm orFn mm .dum v .zero) :=
    immAlu_next_iff.mpr ⟨⟨rfl, by simp⟩, rfl⟩
  have result : (orFn v (readB .zero s) s.carry).1 = v := by simp [orFn, readB]
  have e := (immAlu_effect orFn_givesCarry runs).1
  rw [result] at e
  exact ⟨_, runs, e⟩

theorem otherByte_ne (a : Addr) : otherByte a ≠ a := by
  intro same
  have bit := congrArg (fun v : Addr => v.getLsbD 0) same
  simp [otherByte] at bit

/-- The load after a store: SET ,RD at the same pointer reads the bytes the store left (R64, R337).
-/
theorem exec_set_rd {s t : State} (w : Byte) (sl : t.sl = s.sl) (pointer : t.phpl = s.phpl) :
    ∃ u, exec (.set .rd .dum w) t = .next u ∧ (dmPresent s.sl s.phpl = true →
      u.ch = t.dmRead s.sl s.phpl ∧ u.cl = t.dmRead s.sl (otherByte s.phpl)) := by
  obtain ⟨u, hu, e⟩ := exec_set_dum .rd w t
  have loads := e.memory.loads rfl
  rw [sl, pointer] at loads
  exact ⟨u, hu, fun fitted => by rwa [if_pos fitted] at loads⟩

/-- A store leaves the other byte of its word alone, and stores its own where memory is fitted. -/
theorem memEffect_bytes {s t : State} {mm : MemOp} {ma p : Addr} {v : Byte}
    (e : MemEffect s t mm ma v) (target : memTarget mm ma = some p) (hwf : Memory.wf s.dm)
    (fitted : dmPresent s.sl p = true) :
    t.dmRead s.sl p = v ∧ ∀ q, q ≠ p → t.dmRead s.sl q = s.dmRead s.sl q := by
  refine ⟨?_, fun q hq => e.frame p target _ fun same => hq (physAddr_inj same)⟩
  rw [e.stores p target hwf, if_pos fitted]

/-- Settles O58: the store's effect, read by the load at the same pointer. -/
theorem storeThenLoad : Obligations.StoreThenLoad := by
  intro v w s hwf
  constructor
  · obtain ⟨t, ht, e⟩ := exec_set_dum .w1 v s
    obtain ⟨u, hu, loads⟩ :=
      exec_set_rd w (e.sl (by decide)) ((e.pointer rfl).trans (BitVec.add_zero _))
    refine ⟨t, u, ht, hu, fun fitted => ?_⟩
    obtain ⟨stored, others⟩ := memEffect_bytes e.memory rfl hwf fitted
    obtain ⟨ch, cl⟩ := loads fitted
    exact ⟨ch.trans stored, cl.trans (others _ (otherByte_ne _))⟩
  · obtain ⟨t, ht, e⟩ := exec_set_dum .w2 v s
    obtain ⟨u, hu, loads⟩ :=
      exec_set_rd w (e.sl (by decide)) ((e.pointer rfl).trans (BitVec.add_zero _))
    refine ⟨t, u, ht, hu, fun fitted => ?_⟩
    obtain ⟨stored, others⟩ :=
      memEffect_bytes e.memory rfl hwf ((dmPresent_otherByte ..).trans fitted)
    obtain ⟨ch, cl⟩ := loads fitted
    exact ⟨cl.trans stored, ch.trans (others _ (otherByte_ne _).symm)⟩

/-! ## A transfer and the return after it -/

/-- Without a Data Memory operation the group leaves its body, with B in DUM and pc set (R270). -/
theorem runAux_none (s u : State) (b : BSrc) (next : Addr) :
    s.runAux .none b (fun _ => u) next = (u.setDum (readB b s)).setPc next := rfl

/-- A B source reads the same wherever pc is. -/
theorem readB_setPc (b : BSrc) (s : State) (a : Addr) : readB b (s.setPc a) = readB b s := by
  cases b <;> rfl

/-- JSR with room (R132). -/
theorem exec_jsr_of_room {s : State} (target : Addr) (room : s.stack.length < 96) :
    exec (.jsr target) s = .next ((s.setStack (s.nextPc :: s.stack)).setPc target) := by
  show execJsr target s = _
  rw [execJsr, pushThen_room room]

/-- Settles O48: the address JSR pushes is the one RTS takes. -/
theorem callReturn : Obligations.CallReturn := by
  intro target x b s room
  have run := AuxRun.rtsPlain (s := (s.setStack (s.nextPc :: s.stack)).setPc target) (.inl rfl)
    .none x b rfl
  refine ⟨_, _, exec_jsr_of_room target room, exec_of_auxRun run, ?_⟩
  rw [runAux_none, readB_setPc, readB_setStack]
  rfl

/-- Settles O49: the address TPS pushes is the one RTS takes. -/
theorem computedTransfer : Obligations.ComputedTransfer := by
  intro p x y b c s room
  have push := AuxRun.tps p .none x b room
  rw [← adjusted_eq]
  exact ⟨_, _, exec_of_auxRun push, exec_of_auxRun (.rtsPlain (.inl rfl) .none y c rfl), rfl⟩

/-! ## A Control Memory word written and read back -/

/-- The three bytes of the word RTS ,WC writes (R280, R281). -/
theorem setControlWord_controlWord (s u : State) :
    (u.setControlWord s.controlWord).k = ~~~s.k ∧ (u.setControlWord s.controlWord).ph = s.ph ∧
      (u.setControlWord s.controlWord).pl = s.pl := by
  have bytes := (setControlWord_toNat u s.controlWord).trans (controlWord_toNat s)
  have hk := s.k.isLt
  have hph := s.ph.isLt
  have hpl := s.pl.isLt
  have hph' := (u.setControlWord s.controlWord).ph.isLt
  have hpl' := (u.setControlWord s.controlWord).pl.isLt
  refine ⟨BitVec.eq_of_toNat_eq ?_, BitVec.eq_of_toNat_eq (by omega),
    BitVec.eq_of_toNat_eq (by omega)⟩
  rw [BitVec.toNat_not]
  omega

/-- Settles O50: what RTS ,WC leaves at the address, RTS ,RC takes apart. -/
theorem controlWordReadBack : Obligations.ControlWordReadBack := by
  intro x y b c s a v w rest hcm items
  have write := AuxRun.rtsWrite .none x b items
  obtain ⟨t, ht⟩ : ∃ t, t = s.runAux .none b
    (fun _ => (s.setStack (a :: w :: rest)).cmWrite a s.controlWord) v := ⟨_, rfl⟩
  have read := AuxRun.rtsRead (s := t) .none y c (a := a) (v := w) (rest := rest) (by simp [ht])
  refine ⟨t, _, ht ▸ exec_of_auxRun write, exec_of_auxRun read, fun writable => ?_, fun prom => ?_⟩
  · have word : t.cmRead a = s.controlWord := by
      rw [ht, runAux_cmRead, cmWrite_cmRead (s.setStack (a :: w :: rest)) hcm,
        if_pos ⟨writable, rfl⟩]
    obtain ⟨k, ph, pl⟩ := setControlWord_controlWord s (t.setStack rest)
    rw [runAux_k, runAux_ph, runAux_pl, word]
    refine ⟨k, ph, pl, word ▸ rfl, controlWord_toNat s⟩
  · rw [ht, runAux_cm, State.cmWrite, if_neg (by simp [prom])]
    rfl

end Sys2Proof.Machine
end

section
/-! PROOFS. The results of the ALU instructions, 8-bit and 16-bit (spec 44_register_alu,
45_immediate_alu): every form the spec executes answers a next state, with the result of its
function. -/

namespace Sys2Proof.Machine

/-! ## The forms the spec executes -/

section
variable {f : AluFn} {mm : MemOp} {d : Dest}

/-- A function that gives a carry gives the same one whatever stands in for a missing one. -/
theorem givesCarry_getD_eq {f : AluFn} (h : givesCarry f true) (a b : Byte) (c x y : Bool) :
    (f a b c).2.getD x = (f a b c).2.getD y := by
  obtain ⟨out, hout⟩ := Option.isSome_iff_exists.mp (h a b c)
  rw [hout]
  rfl

/-- RA8 with a function that gives no carry (R180). -/
theorem regAlu_plain (hf : givesCarry f false) (cc : CarryCtl) (mm : MemOp) {a : ASrc} (b : BSrc)
    (s : State) (runs : runs8 false d a) :
    ∃ t, regAlu f false cc mm d a b s = .next t ∧
      t.dum = (f (readA a s) (bValue cc b s) (carryIn cc s)).1 ∧ t.destHolds d t.dum ∧
      (d ≠ .sh → t.carry = carryIn cc s) := by
  obtain ⟨t, h⟩ : ∃ t, regAlu f false cc mm d a b s = .next t :=
    ⟨_, regAlu_next_iff.mpr ⟨runs, rfl⟩⟩
  obtain ⟨e, carry⟩ := regAlu_effect hf h
  refine ⟨t, h, e.dum, e.dum.symm ▸ e.dest, fun hd => ?_⟩
  rw [carry hd, givesCarry_getD hf rfl]

/-- RA8 with a function that gives a carry, which SH does not collide with (R180, R181). -/
theorem regAlu_carries (hf : givesCarry f true) (cc : CarryCtl) (mm : MemOp) {a : ASrc} (b : BSrc)
    (s : State) (runs : runs8 true d a) :
    ∃ t, regAlu f true cc mm d a b s = .next t ∧
      t.dum = (f (readA a s) (bValue cc b s) (carryIn cc s)).1 ∧ t.destHolds d t.dum ∧
      t.carry = (f (readA a s) (bValue cc b s) (carryIn cc s)).2.getD false := by
  obtain ⟨t, h⟩ : ∃ t, regAlu f true cc mm d a b s = .next t :=
    ⟨_, regAlu_next_iff.mpr ⟨runs, rfl⟩⟩
  obtain ⟨e, carry⟩ := regAlu_effect hf h
  have notSh : d ≠ .sh := fun hd => runs.2.2 ⟨rfl, hd⟩
  refine ⟨t, h, e.dum, e.dum.symm ▸ e.dest, ?_⟩
  rw [carry notSh, givesCarry_getD_eq hf]

/-- IM8 with a function that gives no carry (R230). -/
theorem immAlu_plain (hf : givesCarry f false) (mm : MemOp) (imm : Byte) (b : BSrc) (s : State)
    (runs : runsImm false d) :
    ∃ t, immAlu f false mm d imm b s = .next t ∧ t.dum = (f imm (readB b s) s.carry).1 ∧
      t.destHolds d t.dum ∧ (d ≠ .sh → t.carry = s.carry) := by
  obtain ⟨t, h⟩ : ∃ t, immAlu f false mm d imm b s = .next t :=
    ⟨_, immAlu_next_iff.mpr ⟨runs, rfl⟩⟩
  obtain ⟨e, carry⟩ := immAlu_effect hf h
  refine ⟨t, h, e.dum, e.dum.symm ▸ e.dest, fun hd => ?_⟩
  rw [carry hd, givesCarry_getD hf rfl]

/-- IM8 with a function that gives a carry (R230). -/
theorem immAlu_carries (hf : givesCarry f true) (mm : MemOp) (imm : Byte) (b : BSrc) (s : State)
    (runs : runsImm true d) :
    ∃ t, immAlu f true mm d imm b s = .next t ∧ t.dum = (f imm (readB b s) s.carry).1 ∧
      t.destHolds d t.dum ∧ t.carry = (f imm (readB b s) s.carry).2.getD false := by
  obtain ⟨t, h⟩ : ∃ t, immAlu f true mm d imm b s = .next t :=
    ⟨_, immAlu_next_iff.mpr ⟨runs, rfl⟩⟩
  obtain ⟨e, carry⟩ := immAlu_effect hf h
  have notSh : d ≠ .sh := fun hd => runs.2 ⟨rfl, hd⟩
  refine ⟨t, h, e.dum, e.dum.symm ▸ e.dest, ?_⟩
  rw [carry notSh, givesCarry_getD_eq hf]

end

section
variable {f : AluFn} {mm : MemOp}

/-- RA16 on pairs without a write, with a function that gives no carry (R183). -/
theorem regAluX_plain (hf : givesCarry f false) (cc : CarryCtl) (hw : memWrites mm = false)
    (d a b : Fin 7) (s : State) :
    ∃ t, regAluX f cc mm (.r (pairLow d)) (.r (pairLow a)) (.r (pairLow b)) s = .next t ∧
      t.x (pairLow d) = (f (s.x (pairLow a)) (s.x (pairLow b)) (carryIn cc s)).1 ∧
      t.x (pairHigh d) = (f (s.x (pairHigh a)) (s.x (pairHigh b)) (carryIn cc s)).1 ∧
      t.carry = carryIn cc s := by
  obtain ⟨t, h⟩ : ∃ t, regAluX f cc mm (.r (pairLow d)) (.r (pairLow a)) (.r (pairLow b)) s =
    .next t := ⟨_, regAluX_next_iff.mpr ⟨d, a, b, rfl, rfl, rfl, hw, rfl⟩⟩
  obtain ⟨e, carry⟩ := regAluX_effect h
  refine ⟨t, h, e.low, ?_, carry.trans (givesCarry_getD hf rfl ..)⟩
  rw [e.high, results16, givesCarry_getD hf rfl]

/-- RA16 on pairs without a write, the carry of the low byte feeding the high byte (R183). -/
theorem regAluX_carries (hf : givesCarry f true) (cc : CarryCtl) (hw : memWrites mm = false)
    (d a b : Fin 7) (s : State) :
    ∃ t mid, regAluX f cc mm (.r (pairLow d)) (.r (pairLow a)) (.r (pairLow b)) s = .next t ∧
      t.x (pairLow d) = (f (s.x (pairLow a)) (s.x (pairLow b)) (carryIn cc s)).1 ∧
      mid = (f (s.x (pairLow a)) (s.x (pairLow b)) (carryIn cc s)).2.getD false ∧
      t.x (pairHigh d) = (f (s.x (pairHigh a)) (s.x (pairHigh b)) mid).1 ∧
      t.carry = (f (s.x (pairHigh a)) (s.x (pairHigh b)) mid).2.getD false := by
  obtain ⟨t, h⟩ : ∃ t, regAluX f cc mm (.r (pairLow d)) (.r (pairLow a)) (.r (pairLow b)) s =
    .next t := ⟨_, regAluX_next_iff.mpr ⟨d, a, b, rfl, rfl, rfl, hw, rfl⟩⟩
  obtain ⟨e, carry⟩ := regAluX_effect h
  refine ⟨t, _, h, e.low, rfl, ?_, ?_⟩
  · rw [e.high, results16, givesCarry_getD_eq hf]
  · rw [carry, results16, givesCarry_getD_eq hf _ _ _ (carryIn cc s) false,
      givesCarry_getD_eq hf _ _ _ (carryIn cc s) false]

end

/-! ## Logical operations -/

/-- Settles O28: the forms run, and none of these functions gives a carry. -/
theorem logicalResults : Obligations.LogicalResults := by
  refine ⟨fun cc mm d a b s runs => ⟨regAlu_plain orFn_givesCarry cc mm b s runs,
    regAlu_plain xorFn_givesCarry cc mm b s runs, regAlu_plain andFn_givesCarry cc mm b s runs⟩,
    fun mm d imm b s runs => ⟨immAlu_plain orFn_givesCarry mm imm b s runs, ?set,
      immAlu_plain xorFn_givesCarry mm imm b s runs, immAlu_plain andFn_givesCarry mm imm b s runs,
      ?iadd⟩⟩
  case set =>
    obtain ⟨t, h, dum, rest⟩ := immAlu_plain orFn_givesCarry mm imm .zero s runs
    exact ⟨t, h, dum.trans (BitVec.or_zero ..), rest⟩
  case iadd =>
    obtain ⟨t, h, dum, rest⟩ := immAlu_plain addFn_givesCarry mm imm b s runs
    exact ⟨t, h, dum ▸ BitVec.toNat_ofNat .., rest⟩

/-- Settles O35: the two bytes apart, and no carry between them. -/
theorem logicalXResults : Obligations.LogicalXResults := fun cc _ d a b s hw =>
  ⟨regAluX_plain orFn_givesCarry cc hw d a b s, regAluX_plain xorFn_givesCarry cc hw d a b s,
    regAluX_plain andFn_givesCarry cc hw d a b s⟩

/-! ## Binary addition and subtraction -/

/-- The sum and its carry (R196). -/
theorem adcFn_sum (a b : Byte) (c : Bool) :
    (adcFn a b c).1.toNat + 256 * ((adcFn a b c).2.getD false).toNat =
      a.toNat + b.toNat + c.toNat := by
  have := a.isLt
  have := b.isLt
  have := c.toNat_lt
  by_cases out : 256 ≤ a.toNat + b.toNat + c.toNat <;> simp [adcFn, out] <;> omega

/-- The difference as a sum with the complement, and its carry (R190). -/
theorem sbcFn_sum (a b : Byte) (c : Bool) :
    (sbcFn a b c).1.toNat + 256 * ((sbcFn a b c).2.getD false).toNat =
      a.toNat + (255 - b.toNat) + c.toNat := by
  have := a.isLt
  have := b.isLt
  have := c.toNat_lt
  by_cases out : 256 ≤ a.toNat + (255 - b.toNat) + c.toNat <;> simp [sbcFn, out] <;> omega

/-- A carry bit is the quotient of a sum below twice the modulus. -/
theorem carry_eq_decide {c : Bool} {p : Prop} [Decidable p] (h : 0 < c.toNat ↔ p) :
    c = decide p := by
  cases c <;> simp_all

/-- Settles O29: the sum equation, on both forms. -/
theorem binaryAdd : Obligations.BinaryAdd := by
  refine ⟨fun cc mm d a b s runs => ?_, fun mm d imm b s runs => ?_, fun _ _ _ _ _ => ?_,
    fun _ _ _ _ => ?_⟩
  · obtain ⟨t, h, dum, dest, carry⟩ := regAlu_carries adcFn_givesCarry cc mm b s runs
    have sum := adcFn_sum (readA a s) (bValue cc b s) (carryIn cc s)
    rw [← dum, ← carry] at sum
    have := t.dum.isLt
    exact ⟨t, h, by omega, dest, carry_eq_decide (by omega)⟩
  · obtain ⟨t, h, dum, dest, carry⟩ := immAlu_carries adcFn_givesCarry mm imm b s runs
    have sum := adcFn_sum imm (readB b s) s.carry
    rw [← dum, ← carry] at sum
    have := t.dum.isLt
    exact ⟨t, h, by omega, dest, carry_eq_decide (by omega)⟩
  · simp only [encodeBody, bodyReg, wordReg]
    omega
  · simp only [encodeBody, bodyImm]
    omega

/-- Settles O30: the complement sum, on integers. -/
theorem binarySubtract : Obligations.BinarySubtract := by
  refine ⟨fun cc mm d a b s runs => ?_, fun _ _ _ _ _ => ?_⟩
  · obtain ⟨t, h, dum, dest, carry⟩ := regAlu_carries sbcFn_givesCarry cc mm b s runs
    have sum := sbcFn_sum (readA a s) (bValue cc b s) (carryIn cc s)
    rw [← dum, ← carry] at sum
    have := t.dum.isLt
    have := (bValue cc b s).isLt
    exact ⟨t, h, by omega, dest, carry_eq_decide (by omega)⟩
  · simp only [encodeBody, bodyReg, wordReg]
    omega

/-- Settles O36: the sums of the two bytes, linked by the carry. -/
theorem binaryX : Obligations.BinaryX := by
  refine ⟨fun cc mm d a b s hw => ⟨?adc, ?sbc⟩, fun _ _ _ _ _ => ?_, fun _ _ _ _ _ => ?_⟩
  case adc =>
    obtain ⟨t, mid, h, low, link, high, carry⟩ := regAluX_carries adcFn_givesCarry cc hw d a b s
    have first := adcFn_sum (s.x (pairLow a)) (s.x (pairLow b)) (carryIn cc s)
    have second := adcFn_sum (s.x (pairHigh a)) (s.x (pairHigh b)) mid
    rw [← low, ← link] at first
    rw [← high, ← carry] at second
    have := (t.x (pairLow d)).isLt
    have := (t.x (pairHigh d)).isLt
    simp only [pairNat]
    exact ⟨t, h, by omega, carry_eq_decide (by omega)⟩
  case sbc =>
    obtain ⟨t, mid, h, low, link, high, carry⟩ := regAluX_carries sbcFn_givesCarry cc hw d a b s
    have first := sbcFn_sum (s.x (pairLow a)) (s.x (pairLow b)) (carryIn cc s)
    have second := sbcFn_sum (s.x (pairHigh a)) (s.x (pairHigh b)) mid
    rw [← low, ← link] at first
    rw [← high, ← carry] at second
    have := (t.x (pairLow d)).isLt
    have := (t.x (pairHigh d)).isLt
    have := (s.x (pairLow b)).isLt
    have := (s.x (pairHigh b)).isLt
    simp only [pairNat]
    exact ⟨t, h, by omega, carry_eq_decide (by omega)⟩
  · simp only [encodeBody, bodyReg, wordReg]
    omega
  · simp only [encodeBody, bodyReg, wordReg]
    omega

/-! ## Decimal addition and subtraction -/

/-- Settles O31: DAC and DSC are the per-digit formulas. -/
theorem decimalResults : Obligations.DecimalResults := by
  refine ⟨fun cc mm d a b s runs => ⟨?dac, ?dsc⟩, fun mm d imm b s runs => ⟨?idac, ?idsc⟩⟩
  case dac =>
    obtain ⟨t, h, dum, dest, carry⟩ := regAlu_carries dacFn_givesCarry cc mm b s runs
    exact ⟨t, h, dest, dum ▸ carry ▸ dacFn_decimalSum ..⟩
  case dsc =>
    obtain ⟨t, h, dum, dest, carry⟩ := regAlu_carries dscFn_givesCarry cc mm b s runs
    exact ⟨t, h, dest, dum ▸ carry ▸ dscFn_decimalDiff ..⟩
  case idac =>
    obtain ⟨t, h, dum, dest, carry⟩ := immAlu_carries dacFn_givesCarry mm imm b s runs
    exact ⟨t, h, dest, dum ▸ carry ▸ dacFn_decimalSum ..⟩
  case idsc =>
    obtain ⟨t, h, dum, dest, carry⟩ := immAlu_carries dscFn_givesCarry mm imm b s runs
    exact ⟨t, h, dest, dum ▸ carry ▸ dscFn_decimalDiff ..⟩

/-- Settles O37: two decimal bytes, linked by the carry. -/
theorem decimalXResults : Obligations.DecimalXResults := by
  refine fun cc mm d a b s hw => ⟨?dac, ?dsc⟩
  case dac =>
    obtain ⟨t, mid, h, low, link, high, carry⟩ := regAluX_carries dacFn_givesCarry cc hw d a b s
    exact ⟨t, h, mid, low ▸ link ▸ dacFn_decimalSum .., high ▸ carry ▸ dacFn_decimalSum ..⟩
  case dsc =>
    obtain ⟨t, mid, h, low, link, high, carry⟩ := regAluX_carries dscFn_givesCarry cc hw d a b s
    exact ⟨t, h, mid, low ▸ link ▸ dscFn_decimalDiff .., high ▸ carry ▸ dscFn_decimalDiff ..⟩

/-- One decimal digit of a sum, and ten carried (R202). -/
theorem digitSum_decimal {x y d : Nat} {cin cout : Bool} (hx : x ≤ 9) (hy : y ≤ 9)
    (h : digitSum x y cin d cout) : d ≤ 9 ∧ d + 10 * cout.toNat = x + y + cin.toNat := by
  have := cin.toNat_lt
  unfold digitSum at h
  split at h <;> obtain ⟨rfl, rfl⟩ := h
  · rw [Bool.toNat_true]
    omega
  · rw [Bool.toNat_false]
    omega

/-- One decimal digit of a difference, and ten borrowed (R203). -/
theorem digitDiff_decimal {x y d : Nat} {bin bout : Bool} (hx : x ≤ 9) (hy : y ≤ 9)
    (h : digitDiff x y bin d bout) : d ≤ 9 ∧ d + y + bin.toNat = x + 10 * bout.toNat := by
  have := bin.toNat_lt
  unfold digitDiff at h
  split at h <;> obtain ⟨hd, rfl⟩ := h
  · rw [Bool.toNat_true]
    omega
  · rw [Bool.toNat_false]
    omega

/-- Two decimal digits of a sum. -/
theorem decimalSum_bcd {a b r : Byte} {cin cout : Bool} (ha : isBcd a) (hb : isBcd b)
    (h : decimalSum a b cin r cout) :
    isBcd r ∧ bcd r + 100 * cout.toNat = bcd a + bcd b + cin.toNat := by
  obtain ⟨c, low, high⟩ := h
  obtain ⟨hl, el⟩ := digitSum_decimal ha.2 hb.2 low
  obtain ⟨hh, eh⟩ := digitSum_decimal ha.1 hb.1 high
  refine ⟨⟨hh, hl⟩, ?_⟩
  simp only [bcd]
  omega

/-- Two decimal digits of a difference. -/
theorem decimalDiff_bcd {a b r : Byte} {bin bout : Bool} (ha : isBcd a) (hb : isBcd b)
    (h : decimalDiff a b bin r bout) :
    isBcd r ∧ bcd r + bcd b + bin.toNat = bcd a + 100 * bout.toNat := by
  obtain ⟨c, low, high⟩ := h
  obtain ⟨hl, el⟩ := digitDiff_decimal ha.2 hb.2 low
  obtain ⟨hh, eh⟩ := digitDiff_decimal ha.1 hb.1 high
  refine ⟨⟨hh, hl⟩, ?_⟩
  simp only [bcd]
  omega

/-- Settles O32: the digit formulas of O31 on decimal digits. -/
theorem decimalMeaning : Obligations.DecimalMeaning := by
  refine ⟨fun cc mm d a b s runs ha hb => ?_, fun mm d imm b s runs ha hb => ?_⟩
  · obtain ⟨⟨t, ht, -, sum⟩, u, hu, -, diff⟩ := decimalResults.1 cc mm d a b s runs
    exact ⟨⟨t, ht, decimalSum_bcd ha hb sum⟩, u, hu, decimalDiff_bcd ha hb diff⟩
  · obtain ⟨⟨t, ht, -, sum⟩, u, hu, -, diff⟩ := decimalResults.2 mm d imm b s runs
    exact ⟨⟨t, ht, decimalSum_bcd ha hb sum⟩, u, hu, decimalDiff_bcd ha hb diff⟩

/-! ## Nibbles -/

/-- Settles O33: MUL and SDC have no carry control, so B is read as it stands. -/
theorem nibbleResults : Obligations.NibbleResults := by
  refine ⟨fun n mm d a b s runs => ⟨?mul, ?sdc⟩, fun high mm d c b s runs => ?imul⟩
  case mul =>
    obtain ⟨t, h, dum, rest⟩ := regAlu_plain (mulFn_givesCarry n) .asIs mm b s runs
    exact ⟨t, h, by rw [dum, mulFn_toNat, bValue_asIs], rest⟩
  case sdc =>
    obtain ⟨t, h, dum, rest⟩ := regAlu_plain (sdcFn_givesCarry n) .asIs mm b s runs
    exact ⟨t, h, by rw [dum, sdcFn_toNat, bValue_asIs], rest⟩
  case imul =>
    obtain ⟨t, h, dum, rest⟩ := immAlu_plain (imulFn_givesCarry high c) mm 0 b s runs
    exact ⟨t, h, by rw [dum, imulFn_toNat], rest⟩

/-- Settles O38: the two bytes apart. -/
theorem nibbleXResults : Obligations.NibbleXResults := by
  refine fun n mm d a b s hw => ⟨?mul, ?sdc⟩
  case mul =>
    obtain ⟨t, h, low, high, carry⟩ := regAluX_plain (mulFn_givesCarry n) .asIs hw d a b s
    exact ⟨t, h, by rw [low, mulFn_toNat], by rw [high, mulFn_toNat], carry⟩
  case sdc =>
    obtain ⟨t, h, low, high, carry⟩ := regAluX_plain (sdcFn_givesCarry n) .asIs hw d a b s
    exact ⟨t, h, by rw [low, sdcFn_toNat], by rw [high, sdcFn_toNat], carry⟩

/-! ## The carry chain -/

/-- SH bit by bit: the carry, bit 6, and the others. -/
theorem sh_ext {t u : State} (carry : t.carry = u.carry) (pedm : t.pedm = u.pedm)
    (status : ∀ n, n ≠ 0 → n ≠ 6 → t.sh.getLsbD n = u.sh.getLsbD n) : t.sh = u.sh := by
  refine BitVec.eq_of_getLsbD_eq fun n _ => ?_
  by_cases h0 : n = 0
  · exact h0 ▸ carry
  · by_cases h6 : n = 6
    · exact h6 ▸ pedm
    · exact status n h0 h6

/-- An 8-bit form on registers without a Data Memory operation is one link of the chain: it writes
one register and the carry, and goes on (R180). -/
theorem regAlu_link {f : AluFn} (hf : givesCarry f true) (cc : CarryCtl) (d a b : RegNum)
    (s : State) :
    ∃ t, regAlu f true cc .none (.r d) (.r a) (.r b) s = .next t ∧
      (∀ n, t.x n = if n = d then (f (s.x a) (s.x b) (carryIn cc s)).1 else s.x n) ∧
      t.carry = (f (s.x a) (s.x b) (carryIn cc s)).2.getD false ∧ t.pedm = s.pedm ∧
      (∀ n, n ≠ 0 → n ≠ 6 → t.sh.getLsbD n = s.sh.getLsbD n) ∧ t.dm = s.dm ∧ t.pc = s.pc + 1 := by
  obtain ⟨t, h⟩ : ∃ t, regAlu f true cc .none (.r d) (.r a) (.r b) s = .next t :=
    ⟨_, regAlu_next_iff.mpr ⟨⟨rfl, by simp [isPointer], by simp⟩, rfl⟩⟩
  obtain ⟨e, carry⟩ := regAlu_effect hf h
  refine ⟨t, h, fun n => ?_, ?_, e.pedm (by simp), e.status (by simp),
    endsWithMemOp_dm (regAlu_ends h), e.pc⟩
  · split
    · next hn => exact hn ▸ e.dest
    · next hn => exact e.otherR n fun same => hn (Dest.r.inj same).symm
  · exact (carry (by simp)).trans (givesCarry_getD_eq hf ..)

/-- RA16 is two links of a carry chain of RA8 (R205). -/
theorem regAluX_chain {f : AluFn} (hf : givesCarry f true) (cc : CarryCtl) {d a b : Fin 7}
    (s : State)
    (ha : pairLow d ≠ pairHigh a) (hb : pairLow d ≠ pairHigh b) :
    ∃ t u v,
      regAluX f cc .none (.r (pairLow d)) (.r (pairLow a)) (.r (pairLow b)) s = .next t ∧
      regAlu f true cc .none (.r (pairLow d)) (.r (pairLow a)) (.r (pairLow b)) s = .next u ∧
      regAlu f true .asIs .none (.r (pairHigh d)) (.r (pairHigh a)) (.r (pairHigh b)) u = .next v ∧
      t.r = v.r ∧ t.sh = v.sh ∧ t.dm = v.dm ∧ v.pc = t.pc + 1 := by
  obtain ⟨t, mid, ht, low, link, high, carry⟩ := regAluX_carries (mm := .none) hf cc rfl d a b s
  obtain ⟨e, -⟩ := regAluX_effect ht
  obtain ⟨u, hu, ux, ucarry, upedm, ustatus, udm, upc⟩ :=
    regAlu_link hf cc (pairLow d) (pairLow a) (pairLow b) s
  obtain ⟨v, hv, vx, vcarry, vpedm, vstatus, vdm, vpc⟩ :=
    regAlu_link hf .asIs (pairHigh d) (pairHigh a) (pairHigh b) u
  have uhigh : carryIn .asIs u = mid := ucarry.trans link.symm
  rw [uhigh, ux (pairHigh a), if_neg ha.symm, ux (pairHigh b), if_neg hb.symm] at vcarry
  have registers (n : RegNum) : t.x n = v.x n := by
    rw [vx n, uhigh, ux (pairHigh a), if_neg ha.symm, ux (pairHigh b), if_neg hb.symm, ux n]
    by_cases hh : n = pairHigh d
    · rw [if_pos hh, hh, high]
    · by_cases hl : n = pairLow d
      · rw [if_neg hh, if_pos hl, hl, low]
      · rw [if_neg hh, if_neg hl, e.otherR n hl hh]
  refine ⟨t, u, v, ht, hu, hv, Vector.ext fun n hn => registers ⟨n, hn⟩,
    sh_ext (carry.trans vcarry.symm) (e.pedm.trans (vpedm.trans upedm).symm)
      fun n h0 h6 => (e.status n h0 h6).trans ((vstatus n h0 h6).trans (ustatus n h0 h6)).symm,
    (endsWithMemOp_dm (regAluX_ends ht).2).trans (vdm.trans udm).symm, ?_⟩
  have tpc : t.pc = s.pc + 1 := e.pc
  rw [vpc, upc, tpc]

/-- Settles O40: the four functions that give a carry. -/
theorem carryChain : Obligations.CarryChain := by
  intro cc d a b s ha hb wide link pair
  simp only [List.mem_cons, Prod.mk.injEq, List.not_mem_nil, or_false] at pair
  rcases pair with ⟨rfl, rfl⟩ | ⟨rfl, rfl⟩ | ⟨rfl, rfl⟩ | ⟨rfl, rfl⟩
  · exact regAluX_chain adcFn_givesCarry cc s ha hb
  · exact regAluX_chain sbcFn_givesCarry cc s ha hb
  · exact regAluX_chain dacFn_givesCarry cc s ha hb
  · exact regAluX_chain dscFn_givesCarry cc s ha hb

end Sys2Proof.Machine
end

section
/-! PROOFS. The branches, and every way an instruction does not complete: the forms the spec refuses
and the limits of the stack (spec 41_masked_branch to 43_register_compare_branch, 60_exceptions
R307). -/

namespace Sys2Proof.Machine

/-! ## Branches -/

/-- A nibble holds every bit of a mask (R141, R142). -/
theorem maskedTrue_iff (v c : Nibble) :
    maskedTrue v c = true ↔ ∀ n, n < 4 → c.getLsbD n = true → v.getLsbD n = true := by
  rw [maskedTrue, beq_iff_eq]
  constructor
  · intro h n _ hc
    rw [← h, BitVec.getLsbD_and, Bool.and_eq_true] at hc
    exact hc.1
  · intro h
    refine BitVec.eq_of_getLsbD_eq fun n hn => ?_
    cases hc : c.getLsbD n with
    | false => simp [hc]
    | true => simp [hc, h n hn hc]

/-- A nibble holds no bit of a mask (R143, R144). -/
theorem maskedFalse_iff (v c : Nibble) :
    maskedFalse v c = true ↔ ∀ n, n < 4 → c.getLsbD n = true → v.getLsbD n = false := by
  rw [maskedFalse, beq_iff_eq]
  constructor
  · intro h n _ hc
    have bit := congrArg (fun u : Nibble => u.getLsbD n) h
    simpa [hc] using bit
  · intro h
    refine BitVec.eq_of_getLsbD_eq fun n hn => ?_
    cases hc : c.getLsbD n with
    | false => simp [hc]
    | true => simp [h n hn hc]

theorem lo_getLsbD (v : Byte) {n : Nat} (hn : n < 4) : (lo v).getLsbD n = v.getLsbD n := by
  simp [lo, hn]

theorem hi_getLsbD (v : Byte) {n : Nat} (hn : n < 4) : (hi v).getLsbD n = v.getLsbD (n + 4) := by
  simp [hi, hn, Nat.add_comm]

/-- A Masked or Valued Branch, with its test in the words of a statement. -/
theorem testBranch_taken {test : Byte → Bool} {b : BSrc} {s : State} {taken : Prop} (x : BitVec 10)
    (h : test (readB b s) = true ↔ taken) :
    ∃ t, testBranch test x b s = .next t ∧ branchesTo s t x taken :=
  propext h ▸ testBranch_branches test x b s

/-- Settles O22: a mask bit by bit. -/
theorem maskedBranches : Obligations.MaskedBranches := by
  intro x c b s
  refine ⟨testBranch_taken (test := fun v => maskedTrue (lo v) c) x ?btl,
    testBranch_taken (test := fun v => maskedTrue (hi v) c) x ?bth,
    testBranch_taken (test := fun v => maskedFalse (lo v) c) x ?bfl,
    testBranch_taken (test := fun v => maskedFalse (hi v) c) x ?bfh⟩
  case btl =>
    rw [maskedTrue_iff]
    exact forall₂_congr fun n hn => by rw [lo_getLsbD _ hn]
  case bth =>
    rw [maskedTrue_iff]
    exact forall₂_congr fun n hn => by rw [hi_getLsbD _ hn]
  case bfl =>
    rw [maskedFalse_iff]
    exact forall₂_congr fun n hn => by rw [lo_getLsbD _ hn]
  case bfh =>
    rw [maskedFalse_iff]
    exact forall₂_congr fun n hn => by rw [hi_getLsbD _ hn]

/-- Settles O23: a nibble as a number. -/
theorem valuedBranches : Obligations.ValuedBranches := by
  intro x c b s
  refine ⟨testBranch_taken (test := fun v => lo v == c) x ?bel,
    testBranch_taken (test := fun v => hi v == c) x ?beh,
    testBranch_taken (test := fun v => lo v != c) x ?bnl,
    testBranch_taken (test := fun v => hi v != c) x ?bnh⟩
  case bel => rw [beq_iff_eq, ← BitVec.toNat_inj, lo_toNat]
  case beh => rw [beq_iff_eq, ← BitVec.toNat_inj, hi_toNat]
  case bnl => rw [bne_iff_ne, Ne, ← BitVec.toNat_inj, lo_toNat]
  case bnh => rw [bne_iff_ne, Ne, ← BitVec.toNat_inj, hi_toNat]

/-- An 8-bit comparison, with its test in the words of a statement. -/
theorem compareBranch_taken {test : Byte → Byte → Bool} {a : ASrc} {b : BSrc} {s : State}
    {taken : Prop} (x : BitVec 10) (h : test (readA a s) (readB b s) = true ↔ taken) :
    ∃ t, compareBranch test x a b s = .next t ∧ comparesTo s t x a taken :=
  propext h ▸ compareBranch_compares test x a b s

/-- Settles O24: six tests of A and B. -/
theorem compareBranches : Obligations.CompareBranches := by
  intro x a b s
  exact ⟨compareBranch_taken (test := fun u v => decide (u.toNat < v.toNat)) x decide_eq_true_iff,
    compareBranch_taken (test := fun u v => decide (u.toNat ≤ v.toNat)) x decide_eq_true_iff,
    compareBranch_taken (test := fun u v => u == v) x beq_iff_eq,
    compareBranch_taken (test := fun u v => u != v) x bne_iff_ne,
    compareBranch_taken (test := fun u v => u == v) (b := .zero) x beq_iff_eq,
    compareBranch_taken (test := fun u v => u != v) (b := .zero) x bne_iff_ne⟩

/-- A 16-bit comparison of pairs, with its test in the words of a statement. -/
theorem compareBranchX_taken {test : Addr → Addr → Bool} {p q : Fin 7} {s : State} {taken : Prop}
    (x : BitVec 10) (h : test (s.pairValue p) (s.pairValue q) = true ↔ taken) :
    ∃ t, compareBranchX test x (.r (pairLow p)) (.r (pairLow q)) s = .next t ∧
      branchesTo s t x taken :=
  propext h ▸ compareBranchX_branches test x p q s

/-- Settles O25: the pairs as numbers. -/
theorem compareBranchesX : Obligations.CompareBranchesX := by
  intro x p q s
  refine ⟨compareBranchX_taken (test := fun u v => decide (u.toNat < v.toNat)) x ?blrx,
    compareBranchX_taken (test := fun u v => decide (u.toNat ≤ v.toNat)) x ?blex⟩
  case blrx => rw [decide_eq_true_iff, pairValue_toNat, pairValue_toNat]
  case blex => rw [decide_eq_true_iff, pairValue_toNat, pairValue_toNat]

/-! ## Forms the spec refuses -/

/-- A comparison of what is no pair (R161, D7). -/
theorem compareBranchX_refused (test : Addr → Addr → Bool) (x : BitVec 10) {a : ASrc} {b : BSrc}
    (s : State) (h : 6 < a.code ∨ 6 < b.code) :
    compareBranchX test x a b s = .refused .xFormOperand := by
  unfold compareBranchX
  split
  · next ha hb =>
    rcases h with h | h
    · cases (pairA_eq_none.mpr h).symm.trans ha
    · cases (pairB_eq_none.mpr h).symm.trans hb
  · rfl

/-- A 16-bit form on what is no pair (R183, D7). -/
theorem regAluX_refused_operand (f : AluFn) (cc : CarryCtl) (mm : MemOp) {d : Dest} {a : ASrc}
    {b : BSrc} (s : State) (h : 6 < d.code ∨ 6 < a.code ∨ 6 < b.code) :
    regAluX f cc mm d a b s = .refused .xFormOperand := by
  unfold regAluX
  split
  · next hd ha hb =>
    rcases h with h | h | h
    · cases (pairD_eq_none.mpr h).symm.trans hd
    · cases (pairA_eq_none.mpr h).symm.trans ha
    · cases (pairB_eq_none.mpr h).symm.trans hb
  · rfl

/-- A 16-bit form with a write, on pairs (R183, D8). -/
theorem regAluX_refused_write (f : AluFn) (cc : CarryCtl) {mm : MemOp} {d : Dest} {a : ASrc}
    {b : BSrc} (s : State) (hd : d.code ≤ 6) (ha : a.code ≤ 6) (hb : b.code ≤ 6)
    (hw : memWrites mm = true) : regAluX f cc mm d a b s = .refused .xFormWrite := by
  obtain ⟨d', hd⟩ := Option.ne_none_iff_exists'.mp (mt pairD_eq_none.mp (Nat.not_lt.mpr hd))
  obtain ⟨a', ha⟩ := Option.ne_none_iff_exists'.mp (mt pairA_eq_none.mp (Nat.not_lt.mpr ha))
  obtain ⟨b', hb⟩ := Option.ne_none_iff_exists'.mp (mt pairB_eq_none.mp (Nat.not_lt.mpr hb))
  simp only [regAluX, hd, ha, hb, hw, if_true]

/-- Settles O26: the nine 16-bit forms are RA16 of their functions. -/
theorem refusedXForms : Obligations.RefusedXForms := by
  refine ⟨fun x a b s h =>
    ⟨compareBranchX_refused (fun u v => decide (u.toNat < v.toNat)) x s h,
      compareBranchX_refused (fun u v => decide (u.toNat ≤ v.toNat)) x s h⟩,
    fun cc n mm d a b s i mem => ?_⟩
  have form : ∃ f cc', exec i s = regAluX f cc' mm d a b s := by
    simp only [List.mem_cons, List.not_mem_nil, or_false] at mem
    rcases mem with rfl | rfl | rfl | rfl | rfl | rfl | rfl | rfl | rfl <;> exact ⟨_, _, rfl⟩
  obtain ⟨f, cc', h⟩ := form
  rw [h]
  exact ⟨regAluX_refused_operand f cc' mm s, regAluX_refused_write f cc' s⟩

/-- A `+` or `-` source with PL or PH as destination (R181, D9). -/
theorem regAlu_refused_pointer (f : AluFn) (pc : Bool) (cc : CarryCtl) (mm : MemOp) {d : Dest}
    {a : ASrc} (b : BSrc) (s : State) (hd : isPointer d = true) (ha : movesPointer a = true) :
    regAlu f pc cc mm d a b s = .refused .pointerCollision := by
  have legal : d.isLegal = true := by cases d <;> simp_all [isPointer, Dest.isLegal]
  simp [regAlu, legal, hd, ha]

/-- The A codes with `+` or `-` (Table 1, R101). -/
theorem movesPointer_iff (a : ASrc) :
    movesPointer a = true ↔ 8 ≤ a.code ∧ a.code ≠ 10 ∧ a.code ≠ 11 := by
  cases a <;> simp [movesPointer, ASrc.code]

/-- Settles O27: the nine 8-bit Register ALU forms are RA8 of their functions. -/
theorem refusedCollisions : Obligations.RefusedCollisions := by
  refine ⟨fun cc n mm d a b s i mem hd h8 h10 h11 => ?pointer, fun cc mm a b s i mem => ?carry,
    fun mm imm b s i mem => ?immCarry, fun mm clk abs obs cbs srs tim s hw => ?cio⟩
  case pointer =>
    have form : ∃ f pc cc', exec i s = regAlu f pc cc' mm d a b s := by
      simp only [List.mem_cons, List.not_mem_nil, or_false] at mem
      rcases mem with rfl | rfl | rfl | rfl | rfl | rfl | rfl | rfl | rfl <;> exact ⟨_, _, _, rfl⟩
    obtain ⟨f, pc, cc', h⟩ := form
    rw [h]
    refine regAlu_refused_pointer f pc cc' mm b s ?_ ((movesPointer_iff a).mpr ⟨h8, h10, h11⟩)
    rcases hd with rfl | rfl <;> rfl
  case carry =>
    simp only [List.mem_cons, List.not_mem_nil, or_false] at mem
    rcases mem with rfl | rfl | rfl | rfl <;> rfl
  case immCarry =>
    simp only [List.mem_cons, List.not_mem_nil, or_false] at mem
    rcases mem with rfl | rfl | rfl <;> rfl
  case cio => rcases hw with rfl | rfl <;> rfl

/-! ## The stack -/

/-- Settles O20: JSR with room. -/
theorem jsrResult : Obligations.JsrResult := fun target _ room => exec_jsr_of_room target room

theorem popThen_nil {s : State} (go : Addr → List Addr → State) (h : s.stack = []) :
    popThen s go = .fault .stackUnderflow := by
  simp [popThen, h]

theorem popTwoThen_short {s : State} (go : Addr → Addr → List Addr → State)
    (h : s.stack.length ≤ 1) : popTwoThen s go = .fault .stackUnderflow := by
  unfold popTwoThen
  split
  · rfl
  · rfl
  · next items =>
    rw [items] at h
    simp at h

/-- Settles O21: a push on a full stack, and pops of what is not there. -/
theorem stackLimits : Obligations.StackLimits := by
  intro s
  refine ⟨fun full => ⟨fun t => ?jsr, fun p mm x b => ?tps⟩,
    fun empty => ⟨fun mm x b => popThen_nil _ empty, fun cm mm x b => ?rts⟩,
    fun short mm x b => ⟨popTwoThen_short _ short, popTwoThen_short _ short⟩⟩
  case jsr =>
    show execJsr t s = _
    rw [execJsr, pushThen_full full]
  case tps =>
    show execTps p mm x b s = _
    rw [execTps, pushThen_full full]
  case rts =>
    have short : s.stack.length ≤ 1 := by simp [empty]
    cases cm with
    | noOp | noOpAlt => exact popThen_nil _ empty
    | write | read => exact popTwoThen_short _ short

/-! ## Why an instruction stops -/

/-- A meaning that faults only for the stack, and whose refusals are the same in every state. -/
def stopsForStack (g : State → Result) : Prop :=
  ∀ s, (∀ f, g s = .fault f →
      (f = .stackOverflow ∧ 96 ≤ s.stack.length) ∨ (f = .stackUnderflow ∧ s.stack.length ≤ 1)) ∧
    (∀ q, g s = .refused q → (∀ m, q ≠ .notModelled m) ∧ ∀ s', g s' = .refused q)

theorem stopsForStack_of_next {g : State → Result} (h : ∀ s, ∃ t, g s = .next t) :
    stopsForStack g := by
  intro s
  obtain ⟨t, ht⟩ := h s
  rw [ht]
  exact ⟨fun _ hf => (by cases hf), fun _ hq => (by cases hq)⟩

theorem stopsForStack_of_refused {g : State → Result} {q : Refusal} (h : ∀ s, g s = .refused q)
    (hq : ∀ m, q ≠ .notModelled m) : stopsForStack g := by
  intro s
  rw [h s]
  exact ⟨fun _ hf => (by cases hf), fun _ hr => (by cases hr; exact ⟨hq, h⟩)⟩

theorem stopsForStack_of_fault {g : State → Result} (h : ∀ s, (∃ t, g s = .next t) ∨
    (g s = .fault .stackOverflow ∧ 96 ≤ s.stack.length) ∨
    (g s = .fault .stackUnderflow ∧ s.stack.length ≤ 1)) : stopsForStack g := by
  intro s
  rcases h s with ⟨t, ht⟩ | ⟨ht, full⟩ | ⟨ht, short⟩ <;> rw [ht] <;>
    refine ⟨fun _ hf => ?_, fun _ hq => (by cases hq)⟩
  · cases hf
  · cases hf
    exact .inl ⟨rfl, full⟩
  · cases hf
    exact .inr ⟨rfl, short⟩

theorem stopsForStack_push (v : State → Addr) (go : State → State → State) :
    stopsForStack fun s => pushThen s (v s) (go s) := by
  refine stopsForStack_of_fault fun s => ?_
  by_cases room : s.stack.length < 96
  · exact .inl ⟨_, pushThen_room room⟩
  · exact .inr (.inl ⟨pushThen_full (Nat.not_lt.mp room), Nat.not_lt.mp room⟩)

theorem stopsForStack_pop (go : State → Addr → List Addr → State) :
    stopsForStack fun s => popThen s (go s) := by
  refine stopsForStack_of_fault fun s => ?_
  cases items : s.stack with
  | nil => exact .inr (.inr ⟨popThen_nil _ items, by simp⟩)
  | cons v rest => exact .inl ⟨_, popThen_cons _ items⟩

theorem stopsForStack_popTwo (go : State → Addr → Addr → List Addr → State) :
    stopsForStack fun s => popTwoThen s (go s) := by
  refine stopsForStack_of_fault fun s => ?_
  by_cases short : s.stack.length ≤ 1
  · exact .inr (.inr ⟨popTwoThen_short _ short, short⟩)
  · match items : s.stack with
    | [] | [_] => simp [items] at short
    | a :: v :: rest => exact .inl ⟨_, popTwoThen_cons _ items⟩

theorem stopsForStack_regAlu (f : AluFn) (pc : Bool) (cc : CarryCtl) (mm : MemOp) {d : Dest}
    (a : ASrc) (b : BSrc) (legal : d.isLegal = true) :
    stopsForStack (regAlu f pc cc mm d a b) := by
  by_cases pointer : isPointer d = true ∧ movesPointer a = true
  · exact stopsForStack_of_refused
      (fun s => regAlu_refused_pointer f pc cc mm b s pointer.1 pointer.2) (by simp)
  · by_cases carry : pc = true ∧ d = .sh
    · obtain ⟨rfl, rfl⟩ := carry
      exact stopsForStack_of_refused (q := .carryCollision) (fun s => rfl) (by simp)
    · exact stopsForStack_of_next fun s => ⟨_, regAlu_next_iff.mpr ⟨⟨legal, pointer, carry⟩, rfl⟩⟩

theorem stopsForStack_immAlu (f : AluFn) (pc : Bool) (mm : MemOp) {d : Dest} (imm : Byte)
    (b : BSrc) (legal : d.isLegal = true) : stopsForStack (immAlu f pc mm d imm b) := by
  by_cases carry : pc = true ∧ d = .sh
  · obtain ⟨rfl, rfl⟩ := carry
    exact stopsForStack_of_refused (q := .carryCollision) (fun s => rfl) (by simp)
  · exact stopsForStack_of_next fun s => ⟨_, immAlu_next_iff.mpr ⟨⟨legal, carry⟩, rfl⟩⟩

theorem stopsForStack_compareBranchX (test : Addr → Addr → Bool) (x : BitVec 10) (a : ASrc)
    (b : BSrc) : stopsForStack (compareBranchX test x a b) := by
  by_cases h : 6 < a.code ∨ 6 < b.code
  · exact stopsForStack_of_refused (fun s => compareBranchX_refused test x s h) (by simp)
  · obtain ⟨ha, hb⟩ := not_or.mp h
    obtain ⟨p, hp⟩ := Option.ne_none_iff_exists'.mp (mt pairA_eq_none.mp ha)
    obtain ⟨q, hq⟩ := Option.ne_none_iff_exists'.mp (mt pairB_eq_none.mp hb)
    exact stopsForStack_of_next fun s => ⟨_, by simp only [compareBranchX, hp, hq]; rfl⟩

theorem stopsForStack_regAluX (f : AluFn) (cc : CarryCtl) (mm : MemOp) (d : Dest) (a : ASrc)
    (b : BSrc) : stopsForStack (regAluX f cc mm d a b) := by
  by_cases h : 6 < d.code ∨ 6 < a.code ∨ 6 < b.code
  · exact stopsForStack_of_refused (fun s => regAluX_refused_operand f cc mm s h) (by simp)
  · obtain ⟨hd, hab⟩ := not_or.mp h
    obtain ⟨ha, hb⟩ := not_or.mp hab
    cases hw : memWrites mm with
    | true =>
      exact stopsForStack_of_refused (fun s => regAluX_refused_write f cc s (Nat.not_lt.mp hd)
        (Nat.not_lt.mp ha) (Nat.not_lt.mp hb) hw) (by simp)
    | false =>
      obtain ⟨d', hd⟩ := Option.ne_none_iff_exists'.mp (mt pairD_eq_none.mp hd)
      obtain ⟨a', ha⟩ := Option.ne_none_iff_exists'.mp (mt pairA_eq_none.mp ha)
      obtain ⟨b', hb⟩ := Option.ne_none_iff_exists'.mp (mt pairB_eq_none.mp hb)
      exact stopsForStack_of_next fun s => ⟨_, regAluX_next_iff.mpr ⟨d', a', b',
        pairD_eq_some.mp hd, pairA_eq_some.mp ha, pairB_eq_some.mp hb, hw, rfl⟩⟩

/-- Settles O17: form by form. -/
theorem stopReasons : Obligations.StopReasons := by
  intro i s wf
  suffices h : stopsForStack (exec i) from h s
  have m := exec_meaning i
  generalize exec i = g at m
  cases m with
  | jmp t => exact stopsForStack_of_next fun s => ⟨_, rfl⟩
  | jsr t => exact stopsForStack_push State.nextPc _
  | test f x b form => exact stopsForStack_of_next fun s => ⟨_, rfl⟩
  | compare f x a b form => exact stopsForStack_of_next fun s => ⟨_, rfl⟩
  | compareX f x a b form => exact stopsForStack_compareBranchX f x a b
  | alu8 a b form => exact stopsForStack_regAlu _ _ _ _ a b (form.legal wf)
  | imm v b form => exact stopsForStack_immAlu _ _ _ v b (form.legal wf)
  | alu16 a b form => exact stopsForStack_regAluX _ _ _ _ a b
  | cio mm clk abs obs cbs srs tim =>
    cases hw : memWrites mm with
    | true => exact stopsForStack_of_refused (fun s => by rw [execCio, if_pos hw]) (by simp)
    | false => exact stopsForStack_of_next fun s => ⟨_, by rw [execCio, if_neg (by simp [hw])]⟩
  | lpi mm addr => exact stopsForStack_of_next fun s => ⟨_, rfl⟩
  | tpa p mm x r b => exact stopsForStack_of_next fun s => ⟨_, rfl⟩
  | xpa p mm x r b => exact stopsForStack_of_next fun s => ⟨_, rfl⟩
  | tap mm x r b => exact stopsForStack_of_next fun s => ⟨_, rfl⟩
  | tps p mm x b => exact stopsForStack_push (fun s => s.adjusted p) _
  | tsp mm x b => exact stopsForStack_pop _
  | rtsPlain hc mm x b => exact stopsForStack_pop _
  | rtsWrite mm x b => exact stopsForStack_popTwo _
  | rtsRead mm x b => exact stopsForStack_popTwo _

end Sys2Proof.Machine
end

section
/-! PROOFS. Control Memory apart: every instruction but RTS ,WC and ,RC does the same whatever it
holds (spec 20_memory R60, R74). -/

namespace Sys2Proof.Machine

/-! ## Every operation commutes with a change of Control Memory -/

section
variable (s u : State) (m : Memory 24)

@[simp] theorem readA_setCm (a : ASrc) : readA a (s.setCm m) = readA a s := by cases a <;> rfl

@[simp] theorem readB_setCm (b : BSrc) : readB b (s.setCm m) = readB b s := by cases b <;> rfl

theorem carryControl_setCm (cc : CarryCtl) :
    (s.setCm m).carryControl cc = (s.carryControl cc).setCm m := by cases cc <;> rfl

theorem writeC_setCm (d : Dest) (v : Byte) : (s.setCm m).writeC d v = (s.writeC d v).setCm m := by
  cases d <;> rfl

theorem carryOut_setCm (c : Option Bool) : (s.setCm m).carryOut c = (s.carryOut c).setCm m := by
  cases c <;> rfl

theorem unseen_setCm : Unseen fun s => s.setCm m := by
  constructor <;> intros <;> rfl

theorem dmOp_setCm (mm : MemOp) (w : Byte) (ma : Addr) (v : Byte) :
    (s.setCm m).dmOp mm w ma v = (s.dmOp mm w ma v).setCm m :=
  dmOp_unseen (unseen_setCm m) s mm w ma v

theorem finish_setCm (mm : MemOp) (w : Byte) (ma next : Addr) :
    (s.setCm m).finish mm w ma next = (s.finish mm w ma next).setCm m :=
  finish_unseen (unseen_setCm m) s mm w ma next

theorem runReg8_setCm (f : AluFn) (mm : MemOp) (d : Dest) (a : ASrc) (b : BSrc) :
    (s.setCm m).runReg8 f mm d a b = (s.runReg8 f mm d a b).setCm m := by
  have move (t : State) : (t.setCm m).movePointer a = (t.movePointer a).setCm m := rfl
  simp only [State.runReg8, readA_setCm, readB_setCm, setCm_carry, setCm_sl, setCm_phpl,
    setCm_nextPc, writeC_setCm, carryOut_setCm, dmOp_setCm, move, finish_setCm]

theorem runImm_setCm (f : AluFn) (mm : MemOp) (d : Dest) (v : Byte) (b : BSrc) :
    (s.setCm m).runImm f mm d v b = (s.runImm f mm d v b).setCm m := by
  simp only [State.runImm, readB_setCm, setCm_carry, setCm_sl, setCm_phpl, setCm_nextPc,
    writeC_setCm, carryOut_setCm, dmOp_setCm, finish_setCm]

theorem runReg16_setCm (f : AluFn) (mm : MemOp) (d a b : Fin 7) :
    (s.setCm m).runReg16 f mm d a b = (s.runReg16 f mm d a b).setCm m := by
  have setR (t : State) (n : RegNum) (v : Byte) : (t.setCm m).setR n v = (t.setR n v).setCm m := rfl
  have free (t : State) (v : Byte) (n : Nat) :
      ((t.setCm m).setDum v).useFree n = ((t.setDum v).useFree n).setCm m := rfl
  simp only [State.runReg16, setCm_x, setCm_carry, setCm_sl, setCm_phpl, setCm_nextPc, setCm_free,
    setR, carryOut_setCm, free, dmOp_setCm, finish_setCm]

theorem runCio_setCm (clk abs obs cbs srs tim : Bool) :
    (s.setCm m).runCio clk abs obs cbs srs tim = (s.runCio clk abs obs cbs srs tim).setCm m := by
  cases clk <;> cases srs <;> cases tim <;> rfl

theorem runAux_setCm (mm : MemOp) (b : BSrc) (next : Addr) :
    (s.setCm m).runAux mm b (fun _ => u.setCm m) next =
      (s.runAux mm b (fun _ => u) next).setCm m := by
  have dum (v : Byte) : (u.setCm m).setDum v = (u.setDum v).setCm m := rfl
  simp only [State.runAux, readB_setCm, setCm_sl, setCm_phpl, dum, dmOp_setCm, finish_setCm]

end

/-! ## The forms -/

/-- The meaning `g` does not see Control Memory and leaves it alone. -/
def ignoresCm (g : State → Result) : Prop :=
  ∀ (s : State) (m : Memory 24), g (s.setCm m) = mapNext (fun t => t.setCm m) (g s)

theorem ignoresCm_of_next {run : State → State}
    (h : ∀ s m, run (s.setCm m) = (run s).setCm m) : ignoresCm fun s => .next (run s) :=
  fun s m => congrArg Host.Outcome.next (h s m)

theorem ignoresCm_regAlu (f : AluFn) (pc : Bool) (cc : CarryCtl) (mm : MemOp) (d : Dest) (a : ASrc)
    (b : BSrc) : ignoresCm (regAlu f pc cc mm d a b) := by
  intro s m
  unfold regAlu
  rw [carryControl_setCm, runReg8_setCm]
  cases !d.isLegal
  · cases isPointer d && movesPointer a
    · cases pc && d == .sh <;> rfl
    · rfl
  · rfl

theorem ignoresCm_immAlu (f : AluFn) (pc : Bool) (mm : MemOp) (d : Dest) (v : Byte) (b : BSrc) :
    ignoresCm (immAlu f pc mm d v b) := by
  intro s m
  unfold immAlu
  rw [runImm_setCm]
  cases !d.isLegal
  · cases pc && d == .sh <;> rfl
  · rfl

theorem ignoresCm_regAluX (f : AluFn) (cc : CarryCtl) (mm : MemOp) (d : Dest) (a : ASrc)
    (b : BSrc) : ignoresCm (regAluX f cc mm d a b) := by
  intro s m
  unfold regAluX
  split
  · rw [carryControl_setCm, runReg16_setCm]
    cases memWrites mm <;> rfl
  · rfl

theorem ignoresCm_compareBranchX (test : Addr → Addr → Bool) (x : BitVec 10) (a : ASrc) (b : BSrc) :
    ignoresCm (compareBranchX test x a b) := by
  intro s m
  unfold compareBranchX
  split <;> rfl

theorem ignoresCm_execCio (mm : MemOp) (clk abs obs cbs srs tim : Bool) :
    ignoresCm (execCio mm clk abs obs cbs srs tim) := by
  intro s m
  unfold execCio
  rw [runCio_setCm, setCm_sl, setCm_phpl, setCm_nextPc, dmOp_setCm, finish_setCm]
  cases memWrites mm <;> rfl

theorem ignoresCm_execLpi (mm : MemOp) (addr : Addr) : ignoresCm (execLpi mm addr) := by
  refine ignoresCm_of_next fun s m => ?_
  have load (v : Byte) : (((s.setCm m).setPhpl addr).setDum v).useFree 1 =
      (((s.setPhpl addr).setDum v).useFree 1).setCm m := rfl
  rw [setCm_free, load, setCm_sl, setCm_nextPc, dmOp_setCm, finish_setCm]

/-- The run of an instruction that does not touch Control Memory is the same with another one. -/
theorem auxRun_setCm {i : Instr} {s u : State} {mm : MemOp} {b : BSrc} {next : Addr} (m : Memory 24)
    (run : AuxRun s i mm b u next) (hw : ∀ mm x b, i ≠ .rts .write mm x b)
    (hr : ∀ mm x b, i ≠ .rts .read mm x b) : AuxRun (s.setCm m) i mm b (u.setCm m) next := by
  cases run with
  | tpa p mm x r b => exact .tpa p mm x r b
  | xpa p mm x r b => exact .xpa p mm x r b
  | tap mm x r b => exact .tap mm x r b
  | tps p mm x b room => exact .tps p mm x b room
  | tsp mm x b items => exact .tsp mm x b items
  | rtsPlain hc mm x b items => exact .rtsPlain hc mm x b items
  | rtsWrite mm x b => exact absurd rfl (hw mm x b)
  | rtsRead mm x b => exact absurd rfl (hr mm x b)

/-- Settles O55: form by form, and the stack and auxiliary group run by run. -/
theorem controlMemoryIsolated : Obligations.ControlMemoryIsolated := by
  intro i s m hw hr
  have ofRun {mm : MemOp} {b : BSrc} {u : State} {next : Addr} (run : AuxRun s i mm b u next) :
      exec i (s.setCm m) = mapNext (fun t => t.setCm m) (exec i s) := by
    rw [exec_of_auxRun run, exec_of_auxRun (auxRun_setCm m run hw hr), runAux_setCm, mapNext]
  have meaning := exec_meaning i
  generalize hg : exec i = g at meaning
  rw [hg] at ofRun
  cases meaning with
  | jmp t => rfl
  | jsr t =>
    by_cases room : s.stack.length < 96
    · rw [execJsr, execJsr, pushThen_room room, pushThen_room (s := s.setCm m) room]
      rfl
    · have full := Nat.not_lt.mp room
      rw [execJsr, execJsr, pushThen_full full, pushThen_full (s := s.setCm m) full]
      rfl
  | test f x b form =>
    rw [testBranch, readB_setCm]
    rfl
  | compare f x a b form =>
    rw [compareBranch, readA_setCm, readB_setCm]
    rfl
  | compareX f x a b form => exact ignoresCm_compareBranchX f x a b s m
  | alu8 a b form => exact ignoresCm_regAlu _ _ _ _ _ a b s m
  | imm v b form => exact ignoresCm_immAlu _ _ _ _ v b s m
  | alu16 a b form => exact ignoresCm_regAluX _ _ _ _ a b s m
  | cio mm clk abs obs cbs srs tim => exact ignoresCm_execCio mm clk abs obs cbs srs tim s m
  | lpi mm addr => exact ignoresCm_execLpi mm addr s m
  | tpa p mm x r b => exact ofRun (.tpa p mm x r b)
  | xpa p mm x r b => exact ofRun (.xpa p mm x r b)
  | tap mm x r b => exact ofRun (.tap mm x r b)
  | tps p mm x b =>
    by_cases room : s.stack.length < 96
    · exact ofRun (.tps p mm x b room)
    · have full := Nat.not_lt.mp room
      rw [execTps, execTps, pushThen_full full, pushThen_full (s := s.setCm m) full]
      rfl
  | tsp mm x b =>
    cases items : s.stack with
    | nil =>
      rw [execTsp, execTsp, popThen_nil _ items, popThen_nil (s := s.setCm m) _ items]
      rfl
    | cons v rest => exact ofRun (.tsp mm x b items)
  | rtsPlain hc mm x b =>
    cases items : s.stack with
    | nil =>
      rw [rtsPlain, rtsPlain, popThen_nil _ items, popThen_nil (s := s.setCm m) _ items]
      rfl
    | cons v rest => exact ofRun (.rtsPlain hc mm x b items)
  | rtsWrite mm x b => exact absurd rfl (hw mm x b)
  | rtsRead mm x b => exact absurd rfl (hr mm x b)

end Sys2Proof.Machine
end

section
/-! PROOFS. The step and the operand tables: a turn of the processor, a turn of the environment, a
self jump, and what each code of the three buses reads, moves and writes (spec 30_encoding R101 to
R103, 60_exceptions). -/

namespace Sys2Proof.Machine

/-! ## Turns of the processor -/

/-- Settles O13: the two ways the processor gets its turn. -/
theorem stepRunsDecoded : Obligations.StepRunsDecoded := fun s _ _ odd hd =>
  ⟨fun script => (step_of_env_nil script).trans (runWord_ok s odd hd),
    fun _ script => (step_of_env_processor script).trans (runWord_ok _ odd hd)⟩

/-- Settles O14: the two ways a word is not run. -/
theorem badWords : Obligations.BadWords := fun s script =>
  ⟨fun even => (step_of_env_nil script).trans (runWord_even s even),
    fun _ odd hd => (step_of_env_nil script).trans (runWord_error s odd hd)⟩

theorem run_succ_of_next {M : Host.Core} {s t : M.State} (k : Nat) (h : M.step s = .next t) :
    M.run (k + 1) s = M.run k t := by
  rw [Host.Core.run, h]

/-- A step that comes back to its state is repeated for ever. -/
theorem runsSafely_of_fixpoint {s : State} (h : step s = .next s) (n : Nat) : s.runsSafely n := by
  induction n with
  | zero => exact ⟨s, rfl⟩
  | succ n ih =>
    obtain ⟨t, ht⟩ := ih
    exact ⟨t, (run_succ_of_next (M := Sys2Proof.core) n h).trans ht⟩

/-- Settles O16: the self jump is a fixpoint of the step. -/
theorem selfJumpRuns : Obligations.SelfJumpRuns := by
  intro s script word
  have fetched : s.fetch = encode (.jmp s.pc) := word
  have odd : oddParity s.fetch = true := fetched ▸ oddParity_withParity _
  have decoded : decode s.fetch = .ok (.jmp s.pc) := fetched ▸ decodeEncode _ rfl
  exact runsSafely_of_fixpoint ((step_of_env_nil script).trans (runWord_ok s odd decoded))

/-! ## Turns of the environment -/

/-- One bit of SH set or cleared. -/
theorem setShBit_bits (s : State) {n : Nat} (hn : n < 8) (v : Bool) :
    (s.setShBit n v).sh.getLsbD n = v ∧
      ∀ i, i ≠ n → (s.setShBit n v).sh.getLsbD i = s.sh.getLsbD i :=
  ⟨by simp [hn], fun i hi => by simp [hi]⟩

/-- Settles O15: each turn is one or two changes of SH, and the data of the input strobe goes to K.
-/
theorem environmentSteps : Obligations.EnvironmentSteps := by
  intro s rest
  refine ⟨fun data ib9 script => ?strobe, fun v script => ?ready, fun script => ?timer,
    fun v script => ?key⟩
  case strobe =>
    refine ⟨_, step_of_env_environment script, fun busy => ?_, fun free => ?_⟩
    · exact if_pos busy
    · have allowed : (s.setEnv rest).envStep (.inputStrobe data ib9) =
          (((s.setEnv rest).setK data).setShBit 2 ib9).setShBit 1 true :=
        if_neg (by simpa [State.ibs] using free)
      rw [allowed]
      exact ⟨rfl, by simp, by simp, fun n h1 h2 => by simp [h1, h2], rfl⟩
  case ready =>
    obtain ⟨bit, others⟩ := setShBit_bits (s.setEnv rest) (n := 3) (by decide) v
    exact ⟨_, step_of_env_environment script, bit, others, rfl⟩
  case timer =>
    obtain ⟨bit, others⟩ := setShBit_bits (s.setEnv rest) (n := 4) (by decide) false
    exact ⟨_, step_of_env_environment script, bit, others, rfl⟩
  case key =>
    obtain ⟨bit, others⟩ := setShBit_bits (s.setEnv rest) (n := 5) (by decide) v
    exact ⟨_, step_of_env_environment script, bit, others, rfl⟩

/-! ## The operand tables -/

/-- OR with zero is the value itself. -/
theorem orFn_zero (v : Byte) (c : Bool) : orFn v 0 c = (v, none) := by simp [orFn]

/-- OR with B = 0 to DUM shows the A source and moves the pointer (R184). -/
theorem exec_or_dum (a : ASrc) (s : State) :
    exec (.or .asIs .none .dum a .zero) s =
      .next (((s.setDum (readA a s)).movePointer a).setPc (s.pc + 1)) := by
  have runs : runs8 false .dum a := ⟨rfl, by simp [isPointer], by simp⟩
  refine (regAlu_next_iff.mpr ⟨runs, ?_⟩ : regAlu orFn false .asIs .none .dum a .zero s = _)
  simp only [State.runReg8, readB, orFn_zero, readA_carryControl]
  rfl

/-- SET without a Data Memory operation writes its destination and goes on (R232). -/
theorem exec_set_none {d : Dest} (legal : d.isLegal = true) (v : Byte) (s : State) :
    exec (.set .none d v) s = .next ((s.writeC d v).setPc (s.pc + 1)) := by
  refine (immAlu_next_iff.mpr ⟨⟨legal, by simp⟩, ?_⟩ : immAlu orFn false .none d v .zero s = _)
  simp only [State.runImm, readB, orFn_zero]
  cases d <;> rfl

/-- Table 1, code by code (R101). -/
theorem aTable {c : Nat} (hc : c < 16) (s : State) :
    readA (ASrc.ofCode c) s = aValue c s ∧ moveOf (ASrc.ofCode c) = BitVec.ofInt 16 (aAdj c) := by
  interval_cases c <;> exact ⟨rfl, rfl⟩

/-- Table 3, code by code, for the codes that write a register as it is sent (R103). -/
theorem cTable {c : Nat} (hc : c < 16) (hA : c ≠ 10) (hB : c ≠ 11) (hSh : c ≠ 13) (v : Byte)
    (s : State) : (Dest.ofCode c).isLegal = true ∧
      s.writeC (Dest.ofCode c) v = (cWritten c v s).setDum v := by
  interval_cases c <;> try exact ⟨rfl, rfl⟩
  · exact absurd rfl hA
  · exact absurd rfl hB
  · exact absurd rfl hSh

/-- Settles O18: the three tables, shown by OR and by SET. -/
theorem busTables : Obligations.BusTables := by
  intro s
  refine ⟨fun c hc => ?a, fun n => ?b, rfl, rfl, rfl, rfl, rfl, rfl, rfl, rfl,
    fun c v hc hA hB hSh => ?c, fun v => ?sh, fun v => ⟨rfl, rfl⟩⟩
  case a =>
    obtain ⟨value, move⟩ := aTable hc s
    refine ⟨value, move, _, exec_or_dum _ s, value, ?_, rfl⟩
    rw [← move, setPc_phpl, movePointer_phpl', setDum_phpl]
  case b => fin_cases n <;> rfl
  case c =>
    obtain ⟨legal, written⟩ := cTable hc hA hB hSh v s
    rw [exec_set_none legal, written]
    rfl
  case sh =>
    obtain ⟨b0, b1, b2, b3, b4, b5, b6, b7⟩ := shAfterWrite_bits s.sh v
    refine ⟨_, exec_set_none rfl v s, rfl, ?_, b6, ?_⟩
    · rintro n (rfl | rfl | rfl)
      · exact b0
      · exact b1
      · exact b7
    · intro n h2 h5
      interval_cases n
      · exact b2
      · exact b3
      · exact b4
      · exact b5

/-! ## Printed words -/

/-- Settles O1: each word is evaluated. -/
theorem sampleWordsDecode : Obligations.SampleWordsDecode :=
  ⟨rfl, rfl, rfl, rfl, rfl, rfl, rfl, rfl, rfl, rfl, rfl, rfl, rfl, rfl, rfl, rfl⟩

end Sys2Proof.Machine
end

section
/-! PROOFS. The formats with operands, the unassigned words and the parity bit (spec 30_encoding
R91, R97 to R113): a statement's slices are the decoder's fields. -/

namespace Sys2Proof

/-! ## Slices and bits as fields -/

section
variable {w : CWord}

theorem slice_iff {lo n : Nat} {v : BitVec n} :
    w.extractLsb' lo n = v ↔ field w lo n = v.toNat := by
  rw [field_eq_extract, BitVec.toNat_inj]

theorem bit_iff {n : Nat} : w.getLsbD n = true ↔ field w n 1 = 1 := by
  rw [field_one]
  cases w.getLsbD n <;> decide

theorem notBit_iff {n : Nat} : w.getLsbD n = false ↔ field w n 1 = 0 := by
  rw [field_one]
  cases w.getLsbD n <;> decide

/-- A bit as the decoder reads it. -/
theorem field_beq_one (n : Nat) : (field w n 1 == 1) = w.getLsbD n := by
  rw [field_one, toNat_beq_one]

/-- A field inside a known field. -/
theorem subfield {lo n v : Nat} (h : field w lo n = v) (k m : Nat) (hkm : k + m ≤ n) :
    field w (lo + k) m = v / 2 ^ k % 2 ^ m := by
  rw [field_in_field w lo hkm, h]

/-! ## The families -/

/-- Bits 22:21 = 00 and bit 16 = 0: formats RA and SD (R92, R97). -/
theorem decode_reg_word (h21 : field w 21 2 = 0) (h16 : field w 16 1 = 0) :
    decode w = decodeRegAlu w := by
  have bit22 : field w 22 1 = 0 := subfield h21 1 1 (by decide)
  have bit21 : field w 21 1 = 0 := subfield h21 0 1 (by decide)
  simp [decode, bit22, bit21, h16]

/-- Bits 22:21 = 01: format IM (R92, R109). -/
theorem decode_imm_word (h21 : field w 21 2 = 1) : decode w = decodeImm w := by
  have bit22 : field w 22 1 = 0 := subfield h21 1 1 (by decide)
  have bit21 : field w 21 1 = 1 := subfield h21 0 1 (by decide)
  simp [decode, bit22, bit21]

/-- Bits 22:20 = 000 and bit 16 = 1: format MI (R92, R100). -/
theorem decode_aux_word (h20 : field w 20 3 = 0) (h16 : field w 16 1 = 1) :
    decode w = decodeAux w := by
  have bit22 : field w 22 1 = 0 := subfield h20 2 1 (by decide)
  have bit21 : field w 21 1 = 0 := subfield h20 1 1 (by decide)
  have bit20 : field w 20 1 = 0 := subfield h20 0 1 (by decide)
  simp [decode, bit22, bit21, bit20, h16]

/-- Bits 22:20 = 001 and bit 16 = 1: formats LP and IO (R92, R107, R108). -/
theorem decode_io_word (h20 : field w 20 3 = 1) (h16 : field w 16 1 = 1) :
    decode w = decodeIo w := by
  have bit22 : field w 22 1 = 0 := subfield h20 2 1 (by decide)
  have bit21 : field w 21 1 = 0 := subfield h20 1 1 (by decide)
  have bit20 : field w 20 1 = 1 := subfield h20 0 1 (by decide)
  simp [decode, bit22, bit21, bit20, h16]

/-- Bits 22:16 = 0010111: format IO (R107). -/
theorem decode_cio_word (h : field w 16 7 = 0b0010111) : decode w = decodeCio w := by
  have bits22to20 : field w 20 3 = 1 := subfield h 4 3 (by decide)
  have bit19 : field w 19 1 = 0 := subfield h 3 1 (by decide)
  have bits18to17 : field w 17 2 = 3 := subfield h 1 2 (by decide)
  have bit16 : field w 16 1 = 1 := subfield h 0 1 (by decide)
  simp [decode_io_word bits22to20 bit16, decodeIo, bit19, bits18to17]

/-! ## Register ALU -/

/-- A word of the 16-bit forms, by bits 20:18 and 15:14 (R97, R99). -/
theorem decode_regX_word (h21 : field w 21 2 = 0) (h16 : field w 16 1 = 0)
    (h17 : field w 17 1 = 1) :
    decode w = .ok (decodeRegX (field w 18 3) (field w 14 2) (MemOp.ofCode (field w 12 2))
      (Dest.ofCode (field w 8 4)) (ASrc.ofCode (field w 4 4)) (BSrc.ofCode (field w 0 4))) := by
  rw [decode_reg_word h21 h16, decodeRegAlu, if_pos h17]

/-- A word of the 8-bit forms with a legal destination, by bits 20:18 and 15:14 (R97, R99). -/
theorem decode_reg8_word (h21 : field w 21 2 = 0) (h16 : field w 16 1 = 0) (h17 : field w 17 1 = 0)
    (legal : (Dest.ofCode (field w 8 4)).isLegal = true) :
    decode w = .ok (decodeReg8 (field w 18 3) (field w 14 2) (MemOp.ofCode (field w 12 2))
      (Dest.ofCode (field w 8 4)) (ASrc.ofCode (field w 4 4)) (BSrc.ofCode (field w 0 4))) := by
  rw [decode_reg_word h21 h16, decodeRegAlu, if_neg (by omega), if_pos legal]

/-- The operations below 1000 with bits 15:14 = 01 are SDC: their selection is bits 19:18 (R99). -/
theorem sdc_selection (h20 : field w 20 1 = 0) :
    field w 18 3 = field w 18 2 ∧ field w 18 3 < 4 := by
  simp only [field] at h20 ⊢
  omega

/-- SDCX and SDC (R99). -/
theorem decodeRegX_sdcx {aaa cc : Nat} (h : aaa < 4) (hcc : cc = 1) (mm : MemOp) (d : Dest)
    (a : ASrc) (b : BSrc) : decodeRegX aaa cc mm d a b = .sdcx (NibSel.ofCode aaa) mm d a b := by
  unfold decodeRegX
  exact if_pos ⟨h, hcc⟩

theorem decodeReg8_sdc {aaa cc : Nat} (h : aaa < 4) (hcc : cc = 1) (mm : MemOp) (d : Dest)
    (a : ASrc) (b : BSrc) : decodeReg8 aaa cc mm d a b = .sdc (NibSel.ofCode aaa) mm d a b := by
  unfold decodeReg8
  exact if_pos ⟨h, hcc⟩

end

/-- Settles O8: bits 20:17 and 15:14 are the row. -/
theorem registerAluFormat : Obligations.RegisterAluFormat := by
  intro w
  simp only [slice_iff, bit_iff, notBit_iff, ← field_eq_extract, ne_eq, BitVec.reduceToNat]
  intro h21 h16
  refine ⟨fun h20 sel => ⟨fun h17 legal => ?sdc, fun h17 => ?sdcx⟩,
    fun sel => ⟨?or, ?orx, ?xor, ?xorx, ?and, ?andx, ?sbc, ?sbcx⟩,
    ?dac, ?dacx, ?dsc, ?dscx, ?adc, ?adcx, ?mul, ?mulx⟩
  case sdc =>
    obtain ⟨bits, low⟩ := sdc_selection h20
    rw [decode_reg8_word h21 h16 h17 legal, decodeReg8_sdc low sel, bits]
  case sdcx =>
    obtain ⟨bits, low⟩ := sdc_selection h20
    rw [decode_regX_word h21 h16 h17, decodeRegX_sdcx low sel, bits]
  all_goals
    intro h
    have op : field w 18 3 = _ := subfield h 1 3 (by decide)
    have wide : field w 17 1 = _ := subfield h 0 1 (by decide)
  case orx | xorx | andx | sbcx => simp [decode_regX_word h21 h16 wide, decodeRegX, op, sel]
  case dacx | dscx | adcx | mulx => simp [decode_regX_word h21 h16 wide, decodeRegX, op]
  all_goals intro legal
  case or | xor | and | sbc => simp [decode_reg8_word h21 h16 wide legal, decodeReg8, op, sel]
  case dac | dsc | adc | mul => simp [decode_reg8_word h21 h16 wide legal, decodeReg8, op]

/-! ## Immediate ALU -/

/-- The two parts of the constant side by side (R109). -/
theorem imm_constant_eq_append (w : CWord) :
    BitVec.ofNat 8 (field w 14 4 * 16 + field w 4 4) = w.extractLsb' 14 4 ++ w.extractLsb' 4 4 := by
  apply BitVec.eq_of_toNat_eq
  have := field_lt w 14 4
  have := field_lt w 4 4
  rw [toNat_append_eq_mul_add, BitVec.toNat_ofNat, ← field_eq_extract, ← field_eq_extract]
  omega

/-- A word of format IM with a legal destination, by its slices (R109). -/
theorem decode_imm_of_legal {w : CWord} (h : field w 21 2 = 1)
    (legal : (Dest.ofCode (w.extractLsb' 8 4).toNat).isLegal = true) :
    decode w = decodeImmLegal w (MemOp.ofCode (w.extractLsb' 12 2).toNat)
      (Dest.ofCode (w.extractLsb' 8 4).toNat) (w.extractLsb' 14 4 ++ w.extractLsb' 4 4)
      (BSrc.ofCode (w.extractLsb' 0 4).toNat) := by
  rw [← field_eq_extract] at legal
  rw [decode_imm_word h, decodeImm, if_pos legal, imm_constant_eq_append, field_eq_extract w 12 2,
    field_eq_extract w 8 4, field_eq_extract w 0 4]

/-- Settles O9: bits 20:18 are the row. -/
theorem immediateFormat : Obligations.ImmediateFormat := by
  intro w mm d imm b legal
  refine ⟨fun h => ?ior, fun h => ?ixor, fun h => ?iand, fun h => ?iadd, fun h => ?idac,
    fun h => ?idsc, fun h => ?iadc, fun h h16 h14 => ?imul⟩
  all_goals
    have family : field w 21 2 = 1 := subfield (slice_iff.mp h) 3 2 (by decide)
    have op : field w 18 3 = _ := subfield (slice_iff.mp h) 0 3 (by decide)
    rw [decode_imm_of_legal family legal, decodeImmLegal, op]
  case ior => exact ite_isRegister_ofCode _ _ _
  case imul =>
    refine (if_pos ⟨slice_iff.mp h16, notBit_iff.mp h14⟩).trans ?_
    rw [field_beq_one, ofNat_field]
  all_goals rfl

/-! ## The stack and auxiliary group, and CIO -/

/-- Settles O11: bits 19:17 are the row of the group; CIO is the row of format IO. -/
theorem auxAndIoFormats : Obligations.AuxAndIoFormats := by
  intro w
  simp only [slice_iff, notBit_iff, ← field_eq_extract, BitVec.reduceToNat]
  refine ⟨fun h20 h15 => ?aux, fun h14 h4 h0 hz => ?cio⟩
  case aux =>
    have bit16 : field w 16 1 = 1 := subfield h15 1 1 (by decide)
    have bit15 : field w 15 1 = 1 := subfield h15 0 1 (by decide)
    rw [decode_aux_word h20 bit16]
    refine ⟨fun op => ?tpa, fun op => ?xpa, fun op r0 => ?tps, fun op r0 p0 => ?rts,
      fun op p0 q0 => ?tap, fun op z q0 => ?tsp⟩
    case tpa | xpa => simp [decodeAux, bit15, op, field_beq_one]
    case tps => simp [decodeAux, bit15, op, r0, field_beq_one]
    case rts => simp [decodeAux, bit15, op, r0, p0, field_beq_one]
    case tap => simp [decodeAux, bit15, op, p0, q0, field_beq_one]
    case tsp =>
      have r0 : field w 4 5 = 0 := subfield z 0 5 (by decide)
      have p0 : field w 9 2 = 0 := subfield z 5 2 (by decide)
      simp [decodeAux, bit15, op, r0, p0, q0, field_beq_one]
  case cio =>
    have family : field w 16 7 = 0b0010111 := subfield h14 2 7 (by decide)
    have fixed : field w 14 2 = 2 := subfield h14 0 2 (by decide)
    have timer : (field w 2 2 == 3) = w.getLsbD 2 := by
      rw [← field_beq_one, show field w 2 1 = _ from subfield rfl 0 1 (n := 2) (by decide)]
      rcases hz with hz | hz <;> rw [hz] <;> rfl
    have reserved : ¬(field w 4 3 ≠ 0 ∨ field w 0 2 ≠ 0 ∨ field w 2 2 = 1 ∨ field w 2 2 = 2) := by
      omega
    rw [decode_cio_word family, decodeCio, if_neg (not_not.mpr fixed), if_neg reserved, timer]
    simp only [field_beq_one]

/-! ## Words without an instruction -/

/-- Bits 10:9 and 8:4 side by side. -/
theorem field_4_7_eq_zero {w : CWord} (h9 : field w 9 2 = 0) (h4 : field w 4 5 = 0) :
    field w 4 7 = 0 := by
  simp only [field] at h9 h4 ⊢
  omega

/-- The two destination codes that are illegal (R103). -/
theorem isLegal_field_iff (w : CWord) :
    (Dest.ofCode (field w 8 4)).isLegal = true ↔ field w 8 4 ≠ 10 ∧ field w 8 4 ≠ 11 := by
  rw [Dest.isLegal_iff, Dest.code_ofCode (field_lt ..)]

/-- The row of a word of the group with a bit set that its instruction prints as 0. -/
theorem decodeAux_reserved {w : CWord} (bit15 : field w 15 1 = 1)
    (h : (field w 17 3 = 2 ∧ field w 4 5 ≠ 0) ∨
      (field w 17 3 = 3 ∧ (field w 14 1 = 1 ∨ field w 4 5 ≠ 0)) ∨
      (field w 17 3 = 5 ∧ (field w 14 1 = 1 ∨ field w 9 2 ≠ 0)) ∨
      (field w 17 3 = 6 ∧ (field w 14 1 = 1 ∨ field w 4 7 ≠ 0))) :
    decodeAux w = .error .auxReserved := by
  rcases h with ⟨op, r⟩ | ⟨op, p | r⟩ | ⟨op, p | q⟩ | ⟨op, p | z⟩
  · simp [decodeAux, bit15, op, r]
  · simp [decodeAux, bit15, op, p]
  · simp [decodeAux, bit15, op, r]
  · simp [decodeAux, bit15, op, p]
  · simp [decodeAux, bit15, op, q]
  · simp [decodeAux, bit15, op, p]
  · have parts : ¬((field w 14 1 = 0 ∧ field w 9 2 = 0) ∧ field w 4 5 = 0) :=
      fun zero => z (field_4_7_eq_zero zero.1.2 zero.2)
    simp [decodeAux, bit15, op, parts]

/-- Settles O12: row by row. -/
theorem unassignedEncodings : Obligations.UnassignedEncodings := by
  intro w
  simp only [slice_iff, bit_iff, notBit_iff, BitVec.reduceToNat, ne_eq]
  refine ⟨fun h20 h16 => ?aux, fun h20 h16 h19 h17 => ?io, fun h => ?cio, fun h z => ?jump,
    fun hd h => ?destination, fun h hA hB hz => ?imul⟩
  case aux =>
    rw [decode_aux_word h20 h16]
    refine ⟨fun bit15 => ?_, fun bit15 op => ?_, fun bit15 => decodeAux_reserved bit15⟩
    · rw [decodeAux, if_pos bit15]
    · rcases op with op | op <;> simp [decodeAux, bit15, op]
  case io => rw [decode_io_word h20 h16, decodeIo, if_neg (by omega), if_neg h17]
  case cio =>
    rw [decode_cio_word h]
    exact ⟨fun fixed => if_pos fixed, fun fixed reserved =>
      (if_neg (not_not.mpr fixed)).trans (if_pos reserved)⟩
  case jump =>
    rcases h with h | h
    · rw [decode_jmp_word (slice_iff.mpr h), decodeJump, if_neg z]
    · rw [decode_jsr_word (slice_iff.mpr h), decodeJump, if_neg z]
  case destination =>
    have illegal : ¬(Dest.ofCode (field w 8 4)).isLegal = true := by
      rw [isLegal_field_iff]
      omega
    rcases h with ⟨h21, h16⟩ | h21
    · have bit16 : field w 16 1 = 0 := subfield h16 0 1 (by decide)
      have bit17 : field w 17 1 = 0 := subfield h16 1 1 (by decide)
      rw [decode_reg_word h21 bit16, decodeRegAlu, if_neg (by omega), if_neg illegal]
    · rw [decode_imm_word h21, decodeImm, if_neg illegal]
  case imul =>
    have family : field w 21 2 = 1 := subfield h 3 2 (by decide)
    have op : field w 18 3 = _ := subfield h 0 3 (by decide)
    rw [decode_imm_word family, decodeImm, if_pos ((isLegal_field_iff w).mpr ⟨hA, hB⟩),
      decodeImmLegal, op]
    exact if_neg (by omega)

/-! ## The parity bit -/

/-- Counting bits one by one, and as a list (R91). -/
theorem ones_eq_length_filter (n v : Nat) :
    ones n v = ((List.range n).filter fun k => v.testBit k).length := by
  induction n generalizing v with
  | zero => rfl
  | succ n ih =>
    rw [ones, ih, List.range_succ_eq_map, List.filter_cons, List.filter_map, Nat.testBit_zero]
    have shift : (fun k => v.testBit k) ∘ Nat.succ = fun k => (v / 2).testBit k :=
      funext fun k => Nat.testBit_succ v k
    rw [shift]
    rcases Nat.mod_two_eq_zero_or_one v with h | h <;> simp [h, Nat.add_comm]

/-- Bit 23 of an assembled word is the parity bit (R91). -/
theorem withParity_bit23 (body : Nat) :
    (withParity body).getLsbD 23 = true ↔ ones 23 body % 2 = 0 := by
  rw [bit_iff, field, withParity_toNat, ones_mod]
  omega

/-- Settles O4: an assembled word's parity bit makes its count odd; decoding reads bits 22 to 0; a
word is run by its parity first. -/
theorem parityBit : Obligations.ParityBit := by
  refine ⟨fun i => ⟨?_, withParity_mod _, withParity_bit23 _⟩, fun w => ?_, fun w s => ⟨?_, ?_, ?_⟩,
    rfl, rfl, rfl⟩
  · exact beq_iff_eq.mp (oddParity_withParity (encodeBody i))
  · refine decode_congr ?_
    rw [BitVec.toNat_xor, Nat.xor_mod_two_pow]
    exact Nat.xor_zero _
  · rw [oddParity, beq_iff_eq, ones_eq_length_filter]
    rfl
  · exact fun even => ⟨_, Machine.runWord_even s even⟩
  · exact fun odd i hd => Machine.runWord_ok s odd hd

end Sys2Proof
end
